-- ==== Sys2Proof/Word.lean ====
section
/-! DEFINITION. The three widths of the machine: bytes, 16-bit words, 20-bit linear addresses
(spec/00_scope.md R2, spec/20_memory.md R40). -/

namespace Sys2Proof

/-- One byte of memory, of a port or of an instruction. -/
abbrev Byte := BitVec 8

/-- A 16-bit register, offset, selector, immediate or port number. -/
abbrev Word := BitVec 16

/-- A linear address, what the memory accessor takes. -/
abbrev Linear := BitVec 20

end Sys2Proof
end

