-- ==== Sys2Proof/Machine/Bits.lean ====
section
/-! DEFINITION. Byte order, extension and address arithmetic: the bit-field helpers that decoding, operands and memory share. -/

namespace Sys2Proof

/-- `lo8(w) = w[7:0]` (spec/00_scope.md section 6). -/
def lo8 (w : Word) : Byte := w.extractLsb' 0 8

/-- `hi8(w) = w[15:8]` (spec/00_scope.md section 6). -/
def hi8 (w : Word) : Byte := w.extractLsb' 8 8

/-- `{hi, lo}`: the word whose low byte is `lo` (spec/20_memory.md R43, spec/30_encoding.md R76). -/
def word (hi lo : Byte) : Word := hi ++ lo

/-- `zext_16` of a byte. -/
def zext16 (b : Byte) : Word := b.setWidth 16

/-- `sext_16` of a byte: `b` below 0x80, else `b + 0xFF00`. -/
def sext16 (b : Byte) : Word := b.signExtend 16

/-- `addr(seg, off) = (seg * 16 + off) mod 2^20`, in every mode (spec/20_memory.md R41, R50). -/
def addr (seg off : Word) : Linear := BitVec.ofNat 20 (seg.toNat * 16 + off.toNat)

end Sys2Proof
end

