-- ==== Sys2Proof/Syntax.lean ====
section
/-! DEFINITION. The instructions as syntax: register names, operand forms, one constructor of Instr per row of
spec/opcode_table.json. -/

namespace Sys2Proof

/-- The eight 16-bit general registers, in index order (spec/10_state.md R10). -/
inductive Reg16 where
  | ax | cx | dx | bx | sp | bp | si | di
deriving DecidableEq, Repr

/-- The eight 8-bit register views, in index order (spec/10_state.md R11). -/
inductive Reg8 where
  | al | cl | dl | bl | ah | ch | dh | bh
deriving DecidableEq, Repr

/-- The four segment registers, in index order (spec/10_state.md R12). -/
inductive SReg where
  | es | cs | ss | ds
deriving DecidableEq, Repr

/-- The eight bases of the `rm` field, in field order (spec/30_encoding.md R74). -/
inductive Base where
  | bxSi | bxDi | bpSi | bpDi | si | di | bp | bx
deriving DecidableEq, Repr

/-- The memory forms of a ModR/M operand (spec/30_encoding.md R73). -/
inductive EA where
  /-- `mod = 00, rm = 6`: the 16-bit displacement alone. -/
  | direct (disp : Word)
  /-- `mod = 00`, any other `rm`: the base alone. -/
  | based (b : Base)
  /-- `mod = 01`: the base plus a sign-extended byte. -/
  | disp8 (b : Base) (d : Byte)
  /-- `mod = 10`: the base plus a word. -/
  | disp16 (b : Base) (d : Word)
deriving DecidableEq, Repr

/-- An `r/m` operand: a register when `mod = 11`, else a memory location (spec/30_encoding.md R73). -/
inductive RM (ρ : Type) where
  | reg (r : ρ)
  | mem (ea : EA)
deriving DecidableEq, Repr

/-- The instructions, in the order of spec/opcode_table.json. The segment field of the two `Sreg` moves stays a 3-bit number,
because its values 4 to 7 decode and are fatal only when executed (spec/30_encoding.md R81). -/
inductive Instr where
  | segEs
  | segCs
  | segSs
  | cmpAlImm8 (imm : Byte)
  | segDs
  | jzRel8 (rel : Byte)
  | jnzRel8 (rel : Byte)
  | xchgRm16R16 (rm : RM Reg16) (r : Reg16)
  | movR8Rm8 (r : Reg8) (rm : RM Reg8)
  | movR16Rm16 (r : Reg16) (rm : RM Reg16)
  | movRm16Sreg (rm : RM Reg16) (field : BitVec 3)
  | movSregRm16 (field : BitVec 3) (rm : RM Reg16)
  | nop
  | movAlDisp8 (disp : Byte)
  | movAxDisp16 (disp : Word)
  | movDisp8Al (disp : Byte)
  | movDisp16Ax (disp : Word)
  | testAlImm8 (imm : Byte)
  | movR8Imm8 (r : Reg8) (imm : Byte)
  | movR16Imm16 (r : Reg16) (imm : Word)
  | jcxzRel8 (rel : Byte)
  | inAlImm8 (imm : Byte)
  | inAxImm8 (imm : Byte)
  | outImm8Al (imm : Byte)
  | outImm8Ax (imm : Byte)
  | jmpRel16 (rel : Word)
  | jmpFar (off seg : Word)
  | inAlDx
  | inAxDx
  | outDxAl
  | outDxAx
  | cli
  | cld
deriving DecidableEq, Repr

end Sys2Proof
end

