-- ==== Sys2Proof/WellFormed.lean ====
section
/-! DEFINITION. Which syntax terms an encoding stands for. -/

namespace Sys2Proof

/-- BP alone is no form: `mod = 00, rm = 6` is the direct displacement (spec/30_encoding.md R73, R74). -/
def EA.wf : EA → Bool
  | .direct _ => true
  | .based b => b ≠ .bp
  | .disp8 _ _ => true
  | .disp16 _ _ => true

/-- A register operand is always a form. -/
def RM.wf {ρ : Type} : RM ρ → Bool
  | .reg _ => true
  | .mem ea => ea.wf

/-- An instruction is well-formed when its `r/m` operand is. Every other field is encodable at every value. -/
def Instr.wf : Instr → Bool
  | .xchgRm16R16 rm _ => rm.wf
  | .movR8Rm8 _ rm => rm.wf
  | .movR16Rm16 _ rm => rm.wf
  | .movRm16Sreg rm _ => rm.wf
  | .movSregRm16 _ rm => rm.wf
  | .segEs => true
  | .segCs => true
  | .segSs => true
  | .segDs => true
  | .cmpAlImm8 _ => true
  | .testAlImm8 _ => true
  | .jzRel8 _ => true
  | .jnzRel8 _ => true
  | .jcxzRel8 _ => true
  | .jmpRel16 _ => true
  | .jmpFar _ _ => true
  | .nop => true
  | .movAlDisp8 _ => true
  | .movAxDisp16 _ => true
  | .movDisp8Al _ => true
  | .movDisp16Ax _ => true
  | .movR8Imm8 _ _ => true
  | .movR16Imm16 _ _ => true
  | .inAlImm8 _ => true
  | .inAxImm8 _ => true
  | .outImm8Al _ => true
  | .outImm8Ax _ => true
  | .inAlDx => true
  | .inAxDx => true
  | .outDxAl => true
  | .outDxAx => true
  | .cli => true
  | .cld => true

end Sys2Proof
end

