-- ==== Sys2Proof/Decode.lean ====
section
/-! DEFINITION. From instruction bytes to syntax and back: register numbering, the ModR/M byte, the opcode table, the decoder
(total, rejecting by name) and, after it, the encoder (spec/30_encoding.md). -/

namespace Sys2Proof

/-- `R16[field]` (spec/30_encoding.md R80). -/
def Reg16.ofField (f : BitVec 3) : Reg16 :=
  match f.toNat with
  | 0 => .ax | 1 => .cx | 2 => .dx | 3 => .bx | 4 => .sp | 5 => .bp | 6 => .si | _ => .di

/-- The number of a 16-bit register. -/
def Reg16.field : Reg16 → BitVec 3
  | .ax => 0 | .cx => 1 | .dx => 2 | .bx => 3 | .sp => 4 | .bp => 5 | .si => 6 | .di => 7

/-- `R8[field]` (spec/30_encoding.md R80). -/
def Reg8.ofField (f : BitVec 3) : Reg8 :=
  match f.toNat with
  | 0 => .al | 1 => .cl | 2 => .dl | 3 => .bl | 4 => .ah | 5 => .ch | 6 => .dh | _ => .bh

/-- The number of an 8-bit view. -/
def Reg8.field : Reg8 → BitVec 3
  | .al => 0 | .cl => 1 | .dl => 2 | .bl => 3 | .ah => 4 | .ch => 5 | .dh => 6 | .bh => 7

/-- `Sreg[field]` for fields 0 to 3; 4 to 7 name no segment register (spec/30_encoding.md R80, R81). -/
def SReg.ofField (f : BitVec 3) : Option SReg :=
  match f.toNat with
  | 0 => some .es | 1 => some .cs | 2 => some .ss | 3 => some .ds | _ => none

/-- The base that an `rm` field names (spec/30_encoding.md R74). -/
def Base.ofField (f : BitVec 3) : Base :=
  match f.toNat with
  | 0 => .bxSi | 1 => .bxDi | 2 => .bpSi | 3 => .bpDi | 4 => .si | 5 => .di | 6 => .bp | _ => .bx

/-- The `rm` field of a base. -/
def Base.field : Base → BitVec 3
  | .bxSi => 0 | .bxDi => 1 | .bpSi => 2 | .bpDi => 3 | .si => 4 | .di => 5 | .bp => 6 | .bx => 7

/-- `mod = m[7:6]` (spec/30_encoding.md R72). -/
def modField (m : Byte) : BitVec 2 := m.extractLsb' 6 2

/-- `reg = m[5:3]` (spec/30_encoding.md R72). -/
def regField (m : Byte) : BitVec 3 := m.extractLsb' 3 3

/-- `rm = m[2:0]` (spec/30_encoding.md R72); also the `+r` bits of an opcode byte (R77). -/
def rmField (m : Byte) : BitVec 3 := m.extractLsb' 0 3

/-- The operand that `mod` and `rm` name, with the displacement bytes that follow (spec/30_encoding.md R73). -/
def RM.parse {ρ : Type} (regOf : BitVec 3 → ρ) (m : Byte) (disp8 : Byte) (disp16 : Word) : RM ρ :=
  if modField m = 3 then .reg (regOf (rmField m))
  else if modField m = 0 then
    if rmField m = 6 then .mem (.direct disp16) else .mem (.based (Base.ofField (rmField m)))
  else if modField m = 1 then .mem (.disp8 (Base.ofField (rmField m)) disp8)
  else .mem (.disp16 (Base.ofField (rmField m)) disp16)

/-- What the decoder sees of the bytes at CS:IP: the accessor reads `Fetch(k, n)` that some format makes. A 16-bit field is ONE
word read, so its high byte need not be the next byte of the instruction (spec/20_memory.md R46). -/
structure CodeView where
  /-- `Fetch(0, 1)`, the primary opcode byte. -/
  byte0 : Byte
  /-- `Fetch(1, 1)`. -/
  byte1 : Byte
  /-- `Fetch(2, 1)`. -/
  byte2 : Byte
  /-- `Fetch(1, 2)`. -/
  word1 : Word
  /-- `Fetch(2, 2)`. -/
  word2 : Word
  /-- `Fetch(3, 2)`. -/
  word3 : Word
deriving DecidableEq, Repr

/-- The view of bytes that stand one after the other; a missing byte reads as 0. -/
def CodeView.ofBytes (bs : List Byte) : CodeView :=
  let b := fun k => bs.getD k 0
  { byte0 := b 0, byte1 := b 1, byte2 := b 2
    word1 := word (b 2) (b 1), word2 := word (b 3) (b 2), word3 := word (b 4) (b 3) }

/-- The `r/m` operand after a ModR/M byte, 16-bit registers. -/
def CodeView.rm16 (c : CodeView) : RM Reg16 := RM.parse Reg16.ofField c.byte1 c.byte2 c.word2

/-- The `r/m` operand after a ModR/M byte, 8-bit views. -/
def CodeView.rm8 (c : CodeView) : RM Reg8 := RM.parse Reg8.ofField c.byte1 c.byte2 c.word2

/-- A row of the opcode map: the primary bytes `b` with `b &&& mask = pattern`, and how the operands are taken. -/
structure OpRow where
  mask : Byte
  pattern : Byte
  operands : CodeView → Instr

/-- The opcode map (spec/30_encoding.md R78, R71, R76; spec/opcode_table.json), in the table's order. -/
def opTable : List OpRow :=
  [ ⟨0xFF, 0x26, fun _ => .segEs⟩,
    ⟨0xFF, 0x2E, fun _ => .segCs⟩,
    ⟨0xFF, 0x36, fun _ => .segSs⟩,
    ⟨0xFF, 0x3C, fun c => .cmpAlImm8 c.byte1⟩,
    ⟨0xFF, 0x3E, fun _ => .segDs⟩,
    ⟨0xFF, 0x74, fun c => .jzRel8 c.byte1⟩,
    ⟨0xFF, 0x75, fun c => .jnzRel8 c.byte1⟩,
    ⟨0xFF, 0x87, fun c => .xchgRm16R16 c.rm16 (Reg16.ofField (regField c.byte1))⟩,
    ⟨0xFF, 0x8A, fun c => .movR8Rm8 (Reg8.ofField (regField c.byte1)) c.rm8⟩,
    ⟨0xFF, 0x8B, fun c => .movR16Rm16 (Reg16.ofField (regField c.byte1)) c.rm16⟩,
    ⟨0xFF, 0x8C, fun c => .movRm16Sreg c.rm16 (regField c.byte1)⟩,
    ⟨0xFF, 0x8E, fun c => .movSregRm16 (regField c.byte1) c.rm16⟩,
    ⟨0xFF, 0x90, fun _ => .nop⟩,
    ⟨0xFF, 0xA0, fun c => .movAlDisp8 c.byte1⟩,
    ⟨0xFF, 0xA1, fun c => .movAxDisp16 c.word1⟩,
    ⟨0xFF, 0xA2, fun c => .movDisp8Al c.byte1⟩ ] ++
  [ ⟨0xFF, 0xA3, fun c => .movDisp16Ax c.word1⟩,
    ⟨0xFF, 0xA8, fun c => .testAlImm8 c.byte1⟩,
    ⟨0xF8, 0xB0, fun c => .movR8Imm8 (Reg8.ofField (rmField c.byte0)) c.byte1⟩,
    ⟨0xF8, 0xB8, fun c => .movR16Imm16 (Reg16.ofField (rmField c.byte0)) c.word1⟩,
    ⟨0xFF, 0xE3, fun c => .jcxzRel8 c.byte1⟩,
    ⟨0xFF, 0xE4, fun c => .inAlImm8 c.byte1⟩,
    ⟨0xFF, 0xE5, fun c => .inAxImm8 c.byte1⟩,
    ⟨0xFF, 0xE6, fun c => .outImm8Al c.byte1⟩,
    ⟨0xFF, 0xE7, fun c => .outImm8Ax c.byte1⟩,
    ⟨0xFF, 0xE9, fun c => .jmpRel16 c.word1⟩,
    ⟨0xFF, 0xEA, fun c => .jmpFar c.word1 c.word3⟩,
    ⟨0xFF, 0xEC, fun _ => .inAlDx⟩,
    ⟨0xFF, 0xED, fun _ => .inAxDx⟩,
    ⟨0xFF, 0xEE, fun _ => .outDxAl⟩,
    ⟨0xFF, 0xEF, fun _ => .outDxAx⟩,
    ⟨0xFF, 0xFA, fun _ => .cli⟩,
    ⟨0xFF, 0xFC, fun _ => .cld⟩ ]

/-- Whether a row maps a primary byte. -/
def OpRow.maps (row : OpRow) (b : Byte) : Bool := b &&& row.mask == row.pattern

/-- Why bytes are no instruction. -/
inductive DecodeError where
  /-- The primary byte is not in the opcode map: executing it is fatal (spec/30_encoding.md R79). -/
  | unmappedOpcode (b : Byte)
  /-- A list of bytes ends before the instruction does. A fetch never meets this: it reads memory, which has no end. -/
  | truncated
deriving DecidableEq, Repr

/-- The decoder: total, rejecting an unmapped primary byte by name. -/
def decode (c : CodeView) : Except DecodeError Instr :=
  match opTable.find? (fun row => row.maps c.byte0) with
  | some row => .ok (row.operands c)
  | none => .error (.unmappedOpcode c.byte0)

/-- Displacement bytes of a memory form (`dispBytes` of spec/30_encoding.md R73). -/
def EA.dispBytes : EA → Nat
  | .direct _ => 2
  | .based _ => 0
  | .disp8 _ _ => 1
  | .disp16 _ _ => 2

/-- `total`: the ModR/M byte and its displacement (spec/30_encoding.md R73). -/
def RM.total {ρ : Type} : RM ρ → Nat
  | .reg _ => 1
  | .mem ea => 1 + ea.dispBytes

/-- The ModR/M byte `mod reg rm` of an operand and a `reg` field (spec/30_encoding.md R72, R73). -/
def RM.modrmByte {ρ : Type} (fieldOf : ρ → BitVec 3) (reg : BitVec 3) : RM ρ → Byte
  | .reg r => 3#2 ++ reg ++ fieldOf r
  | .mem (.direct _) => 0#2 ++ reg ++ 6#3
  | .mem (.based b) => 0#2 ++ reg ++ b.field
  | .mem (.disp8 b _) => 1#2 ++ reg ++ b.field
  | .mem (.disp16 b _) => 2#2 ++ reg ++ b.field

/-- A field of an instruction as it is fetched: one byte, or one little-endian word (spec/30_encoding.md R71, R76). -/
inductive Piece where
  | byte (b : Byte)
  | word (w : Word)
deriving DecidableEq, Repr

/-- The bytes of a field, lowest address first. -/
def Piece.bytes : Piece → List Byte
  | .byte b => [b]
  | .word w => [lo8 w, hi8 w]

/-- How many bytes a field has. -/
def Piece.size : Piece → Nat
  | .byte _ => 1
  | .word _ => 2

/-- The displacement field that follows the ModR/M byte. -/
def RM.dispPieces {ρ : Type} : RM ρ → List Piece
  | .reg _ => []
  | .mem (.direct d) => [.word d]
  | .mem (.based _) => []
  | .mem (.disp8 _ d) => [.byte d]
  | .mem (.disp16 _ d) => [.word d]

/-- The encoder, field by field (spec/30_encoding.md R71). -/
def encodePieces : Instr → List Piece
  | .segEs => [.byte 0x26]
  | .segCs => [.byte 0x2E]
  | .segSs => [.byte 0x36]
  | .cmpAlImm8 imm => [.byte 0x3C, .byte imm]
  | .segDs => [.byte 0x3E]
  | .jzRel8 rel => [.byte 0x74, .byte rel]
  | .jnzRel8 rel => [.byte 0x75, .byte rel]
  | .xchgRm16R16 rm r => .byte 0x87 :: .byte (rm.modrmByte Reg16.field r.field) :: rm.dispPieces
  | .movR8Rm8 r rm => .byte 0x8A :: .byte (rm.modrmByte Reg8.field r.field) :: rm.dispPieces
  | .movR16Rm16 r rm => .byte 0x8B :: .byte (rm.modrmByte Reg16.field r.field) :: rm.dispPieces
  | .movRm16Sreg rm f => .byte 0x8C :: .byte (rm.modrmByte Reg16.field f) :: rm.dispPieces
  | .movSregRm16 f rm => .byte 0x8E :: .byte (rm.modrmByte Reg16.field f) :: rm.dispPieces
  | .nop => [.byte 0x90]
  | .movAlDisp8 d => [.byte 0xA0, .byte d]
  | .movAxDisp16 d => [.byte 0xA1, .word d]
  | .movDisp8Al d => [.byte 0xA2, .byte d]
  | .movDisp16Ax d => [.byte 0xA3, .word d]
  | .testAlImm8 imm => [.byte 0xA8, .byte imm]
  | .movR8Imm8 r imm => [.byte (0b10110#5 ++ r.field), .byte imm]
  | .movR16Imm16 r imm => [.byte (0b10111#5 ++ r.field), .word imm]
  | .jcxzRel8 rel => [.byte 0xE3, .byte rel]
  | .inAlImm8 imm => [.byte 0xE4, .byte imm]
  | .inAxImm8 imm => [.byte 0xE5, .byte imm]
  | .outImm8Al imm => [.byte 0xE6, .byte imm]
  | .outImm8Ax imm => [.byte 0xE7, .byte imm]
  | .jmpRel16 rel => [.byte 0xE9, .word rel]
  | .jmpFar off seg => [.byte 0xEA, .word off, .word seg]
  | .inAlDx => [.byte 0xEC]
  | .inAxDx => [.byte 0xED]
  | .outDxAl => [.byte 0xEE]
  | .outDxAx => [.byte 0xEF]
  | .cli => [.byte 0xFA]
  | .cld => [.byte 0xFC]

/-- The bytes of an instruction, lowest address first. -/
def encode (i : Instr) : List Byte := (encodePieces i).flatMap Piece.bytes

/-- The length table (spec/30_encoding.md R83). -/
def Instr.length : Instr → Nat
  | .segEs => 1
  | .segCs => 1
  | .segSs => 1
  | .segDs => 1
  | .nop => 1
  | .inAlDx => 1
  | .inAxDx => 1
  | .outDxAl => 1
  | .outDxAx => 1
  | .cli => 1
  | .cld => 1
  | .cmpAlImm8 _ => 2
  | .testAlImm8 _ => 2
  | .jzRel8 _ => 2
  | .jnzRel8 _ => 2
  | .jcxzRel8 _ => 2
  | .movAlDisp8 _ => 2
  | .movDisp8Al _ => 2
  | .movR8Imm8 _ _ => 2
  | .inAlImm8 _ => 2
  | .inAxImm8 _ => 2
  | .outImm8Al _ => 2
  | .outImm8Ax _ => 2
  | .movAxDisp16 _ => 3
  | .movDisp16Ax _ => 3
  | .movR16Imm16 _ _ => 3
  | .jmpRel16 _ => 3
  | .jmpFar _ _ => 5
  | .xchgRm16R16 rm _ => 1 + rm.total
  | .movR8Rm8 _ rm => 1 + rm.total
  | .movR16Rm16 _ rm => 1 + rm.total
  | .movRm16Sreg rm _ => 1 + rm.total
  | .movSregRm16 _ rm => 1 + rm.total

/-- Decode from a list of bytes, giving the instruction and the bytes after it. -/
def decodeBytes (bs : List Byte) : Except DecodeError (Instr × List Byte) :=
  if bs = [] then .error .truncated
  else
    match decode (CodeView.ofBytes bs) with
    | .error e => .error e
    | .ok i => if i.length ≤ bs.length then .ok (i, bs.drop i.length) else .error .truncated

/-- The five bytes of a table word: byte `k` is bits `8k+7..8k` of `w`, bits at `nbits` and above being 0. -/
def tableBytes (nbits w : Nat) : List Byte :=
  (List.range 5).map fun k => BitVec.ofNat 8 (w % 2 ^ nbits / 2 ^ (8 * k))

/-- The instruction the decoder reads from a table word. -/
def decodeTableWord (nbits w : Nat) : Option Instr :=
  match decode (CodeView.ofBytes (tableBytes nbits w)) with
  | .ok i => some i
  | .error _ => none

/-- Cut raw bytes into fields of the given sizes. -/
def cutPieces : List Nat → List Byte → List Piece
  | [], _ => []
  | n :: ns, bs =>
    if n = 2 then .word (word (bs.getD 1 0) (bs.getD 0 0)) :: cutPieces ns (bs.drop 2)
    else .byte (bs.getD 0 0) :: cutPieces ns (bs.drop 1)

/-- The fields of the instruction that raw bytes begin with; bytes that are no instruction are cut one by one. -/
def fetchPieces (bs : List Byte) : List Piece :=
  match decode (CodeView.ofBytes bs) with
  | .ok i => cutPieces ((encodePieces i).map Piece.size) bs
  | .error _ => bs.map Piece.byte

end Sys2Proof
end

