-- ==== Sys2Proof/Config.lean ====
section
/-! DEFINITION. What an implementation fixes: the OPEN parameters of spec/00_scope.md section 4 as a structure that the
events take as an argument, the fixed parameters, and the free value of AF after TEST. -/

namespace Sys2Proof.Config

/-- The OPEN parameters of spec/00_scope.md section 4 (R3, decision D13). No step reads one: only `construct` and the delivery of
a mode-switch message read the two mode bytes, and no rule reads the other four (spec/49_mode_switch.md R194). -/
structure Params where
  /-- The byte of the REAL mode. -/
  modeReal : Byte
  /-- The byte of the PROTECTED mode. -/
  modeProtected : Byte
  /-- The well-known part id of the primary processor. -/
  partId : Nat
  /-- The numeric bus id the bus assigns. -/
  busId : Nat
  /-- First linear address of the BIOS region that the lock message refers to. -/
  biosFirst : Linear
  /-- Last linear address of the BIOS region that the lock message refers to. -/
  biosLast : Linear
deriving DecidableEq, Repr

/-- The one law of the parameters: the two mode bytes are distinct. -/
def Params.wf (P : Params) : Bool := P.modeReal ≠ P.modeProtected

/-- The parameters `State.reset` uses. The two mode bytes are those of the test vectors (spec/95_test_vectors.md section 2.10).
DESIGN CHOICE, unsafe: the source gives no value (log entries 2 and 12). -/
def Params.vectors : Params :=
  { modeReal := 0x00#8, modeProtected := 0x01#8, partId := 0, busId := 0, biosFirst := 0xF0000#20, biosLast := 0xFFFFF#20 }

/-- CS after reset (spec/70_reset_and_hazards.md R221). -/
def resetCs : Word := 0xF000#16

/-- IP after reset (spec/70_reset_and_hazards.md R221). -/
def resetIp : Word := 0xFFF0#16

/-- `MEM_SIZE`, in bytes (spec/20_memory.md R40, decision D6). -/
def memSize : Nat := 2 ^ 20

/-- `PORT_SPACE`, in byte-wide ports (spec/20_memory.md R47). -/
def portSize : Nat := 2 ^ 16

/-- The draws of the environment (spec/93_implementation_defined.md U1): a free value for each index, with no body, so that
nothing can be proved of it. AF after TEST is one (U2, spec/43_alu.md R137). DESIGN CHOICE, safe (log entry 5). -/
opaque drawBit : Nat → Bool

end Sys2Proof.Config
end

