-- ==== Sys2Proof/Machine/State.lean ====
section
/-! DEFINITION. The state the spec gives the machine (spec/10_state.md), as plain data, the reasons a step stops, `construct`,
the writes of `reset`, and `State.reset`. -/

namespace Sys2Proof.Machine

/-- The nine flag bits (spec/10_state.md R14). -/
structure Flags where
  cF : Bool
  pF : Bool
  aF : Bool
  zF : Bool
  sF : Bool
  tF : Bool
  iF : Bool
  dF : Bool
  oF : Bool
deriving DecidableEq, Repr

/-- The register file: eight general registers, four selectors, IP, the flags (spec/10_state.md R10, R12, R13, R14). The 8-bit
views have no storage (R11, R225). -/
structure RegFile where
  ax : Word
  cx : Word
  dx : Word
  bx : Word
  sp : Word
  bp : Word
  si : Word
  di : Word
  es : Word
  cs : Word
  ss : Word
  ds : Word
  ip : Word
  flags : Flags
deriving DecidableEq, Repr

/-- The segment-override scratch (spec/10_state.md R18). -/
structure Override where
  enable : Bool
  selector : Word
deriving DecidableEq, Repr

/-- The three fatal conditions (spec/60_exceptions.md R200). -/
inductive FatalKind where
  | unknownOpcode
  | unrecognizedSubencoding
  | ipNotAdvanced
deriving DecidableEq, Repr

/-- What a fatal condition records (spec/10_state.md R21, spec/60_exceptions.md R200, R205). -/
structure HaltRecord where
  kind : FatalKind
  cs : Word
  ip : Word
  linear : Linear
  /-- `CUR_OPCODE`. -/
  opcode : Byte
  /-- The ModR/M byte, which R200 lists for UNRECOGNIZED_SUBENCODING alone (DEDUCED, safe: log entry 8). -/
  modrm : Option Byte
  /-- The copy of the register file. -/
  snapshot : RegFile
deriving DecidableEq, Repr

/-- The halt latch (spec/10_state.md R21). -/
inductive Halt where
  | running
  | halted (r : HaltRecord)
deriving DecidableEq, Repr

/-- The messages the core emits (spec/49_mode_switch.md R193), by name (DESIGN CHOICE, safe: log entry 11). -/
inductive OutMsg where
  | globalCpuModeswitch (mode : Byte)
  | globalLockBiosMemRegion
deriving DecidableEq, Repr

/-- One port access the core issued, with the value read or written (spec/20_memory.md R56, decision D21). -/
inductive PortEvent where
  | read8 (port : Word) (v : Byte)
  | read16 (port : Word) (v : Word)
  | write8 (port : Word) (v : Byte)
  | write16 (port : Word) (v : Word)
deriving DecidableEq, Repr

/-- A byte array as the list of its listed bytes, addresses strictly rising; used for MEM and for PORT (spec/10_state.md R22). -/
abbrev Memory := List Host.Cell

/-- All the state of spec/10_state.md section 1, and two fields of the model's own at the end. -/
structure State where
  regs : RegFile
  /-- The one meaningful bit of CR0 (R16). -/
  cr0Pe : Bool
  /-- `MODE` (R17). -/
  mode : Byte
  /-- `OVR` (R18). -/
  ovr : Override
  /-- `CUR_OPCODE` (R19). -/
  curOpcode : Byte
  /-- `LAST_EXEC` (R20). -/
  lastExec : Option Linear
  /-- `HALT` (R21). -/
  halt : Halt
  /-- `MEM` (R22). -/
  mem : Memory
  /-- `PORT` (R22). -/
  ports : Memory
  /-- `OUT_MSGS`, oldest first (R23). -/
  outMsgs : List OutMsg
  /-- The port accesses issued, oldest first: the model's own (decision D21, log entry 4). -/
  portEvents : List PortEvent
  /-- The index of the next draw: the model's own (log entry 5). -/
  drawCount : Nat
deriving DecidableEq, Repr

/-- Why the machine stops. -/
inductive Fault where
  /-- Raised by `step`, and by the events `reset` and message delivery, on a core whose HALT is not `running`: none of them is
  enabled there (spec/48_step_driver.md R179, spec/60_exceptions.md R206). It carries the record, which is never cleared.
  Safe: the machine is stuck, as the spec says. -/
  | halted (r : HaltRecord)
deriving DecidableEq, Repr

/-- What the model gives no meaning to. -/
inductive Refusal where
  /-- Raised by an arm of `exec` whose instruction has no meaning yet; no arm does. Safe. -/
  | notModelled (mnemonic : String)
  /-- Raised by the delivery of a mode-switch request whose payload is not one byte: outside the interface
  (spec/49_mode_switch.md R195). Safe. -/
  | malformedModeSwitchRequest
deriving DecidableEq, Repr

/-- `construct` (spec/70_reset_and_hazards.md R220, spec/10_state.md R24): `init` is the OPEN parameter INIT, the two arrays are
the environment's. `OVR.selector` and `CUR_OPCODE` are unspecified there: 0 (DESIGN CHOICE, unsafe: log entry 10). -/
def State.construct (P : Config.Params) (init : RegFile) (mem ports : Memory) : State :=
  { regs := init
    cr0Pe := false
    mode := P.modeReal
    ovr := { enable := false, selector := 0 }
    curOpcode := 0
    lastExec := none
    halt := .running
    mem := mem
    ports := ports
    outMsgs := []
    portEvents := []
    drawCount := 0 }

/-- What `reset` writes (spec/70_reset_and_hazards.md R221), and nothing else. -/
def State.resetWrites (s : State) : State :=
  { s with
    regs := { s.regs with cs := Config.resetCs, ip := Config.resetIp }
    ovr := { s.ovr with enable := false }
    lastExec := none
    outMsgs := s.outMsgs ++ [.globalLockBiosMemRegion] }

/-- INIT of `State.reset`: all zero, as in spec/95_test_vectors.md (decision D12). DESIGN CHOICE, unsafe: log entry 1. -/
def RegFile.zero : RegFile :=
  { ax := 0, cx := 0, dx := 0, bx := 0, sp := 0, bp := 0, si := 0, di := 0
    es := 0, cs := 0, ss := 0, ds := 0, ip := 0
    flags := { cF := false, pF := false, aF := false, zF := false, sF := false, tF := false, iF := false, dF := false,
               oF := false } }

/-- The machine right after `construct` and one `reset` (spec/70_reset_and_hazards.md R220, R221; log entry 9). -/
def State.reset : State := (State.construct Config.Params.vectors RegFile.zero [] []).resetWrites

end Sys2Proof.Machine
end

