-- ==== Sys2Proof/Machine/Ops.lean ====
section
/-! DEFINITION. The named operations over registers, memory, ports, instruction fetch, the override, and taking a fatal
condition. There is no return from a fatal condition (spec/60_exceptions.md R206), so none stands beside it. -/

namespace Sys2Proof.Machine

/-- Read `R16[r]` (spec/10_state.md R10). -/
def RegFile.get16 (f : RegFile) : Reg16 → Word
  | .ax => f.ax | .cx => f.cx | .dx => f.dx | .bx => f.bx | .sp => f.sp | .bp => f.bp | .si => f.si | .di => f.di

/-- Write `R16[r]` (spec/10_state.md R10). -/
def RegFile.set16 (f : RegFile) (r : Reg16) (v : Word) : RegFile :=
  match r with
  | .ax => { f with ax := v }
  | .cx => { f with cx := v }
  | .dx => { f with dx := v }
  | .bx => { f with bx := v }
  | .sp => { f with sp := v }
  | .bp => { f with bp := v }
  | .si => { f with si := v }
  | .di => { f with di := v }

/-- The 16-bit register an 8-bit view lies in (spec/10_state.md R11). -/
def parent8 : Reg8 → Reg16
  | .al | .ah => .ax
  | .cl | .ch => .cx
  | .dl | .dh => .dx
  | .bl | .bh => .bx

/-- Whether a view is the high byte of its parent (spec/10_state.md R11). -/
def isHigh8 : Reg8 → Bool
  | .al | .cl | .dl | .bl => false
  | .ah | .ch | .dh | .bh => true

/-- Read `R8[r]` (spec/10_state.md R11). -/
def RegFile.get8 (f : RegFile) (r : Reg8) : Byte :=
  if isHigh8 r then hi8 (f.get16 (parent8 r)) else lo8 (f.get16 (parent8 r))

/-- Write `R8[r]`: the other byte of the parent is kept (spec/10_state.md R11). -/
def RegFile.set8 (f : RegFile) (r : Reg8) (v : Byte) : RegFile :=
  let w := f.get16 (parent8 r)
  f.set16 (parent8 r) (if isHigh8 r then word v (lo8 w) else word (hi8 w) v)

/-- Read a segment register's selector (spec/10_state.md R12). -/
def RegFile.getSeg (f : RegFile) : SReg → Word
  | .es => f.es | .cs => f.cs | .ss => f.ss | .ds => f.ds

/-- Write a segment register's selector (spec/10_state.md R12). -/
def RegFile.setSeg (f : RegFile) (r : SReg) (v : Word) : RegFile :=
  match r with
  | .es => { f with es := v }
  | .cs => { f with cs := v }
  | .ss => { f with ss := v }
  | .ds => { f with ds := v }

/-- Write IP (spec/10_state.md R13). -/
def RegFile.setIp (f : RegFile) (v : Word) : RegFile := { f with ip := v }

/-- Write the flags (spec/10_state.md R14). -/
def RegFile.setFlags (f : RegFile) (v : Flags) : RegFile := { f with flags := v }

/-- `R16[r]`. -/
def State.r16 (s : State) (r : Reg16) : Word := s.regs.get16 r

/-- `R16[r] <- v`. -/
def State.setR16 (s : State) (r : Reg16) (v : Word) : State := { s with regs := s.regs.set16 r v }

/-- `R8[r]`. -/
def State.r8 (s : State) (r : Reg8) : Byte := s.regs.get8 r

/-- `R8[r] <- v`. -/
def State.setR8 (s : State) (r : Reg8) (v : Byte) : State := { s with regs := s.regs.set8 r v }

/-- `Sreg[r]`. -/
def State.seg (s : State) (r : SReg) : Word := s.regs.getSeg r

/-- `Sreg[r] <- v`. -/
def State.setSeg (s : State) (r : SReg) (v : Word) : State := { s with regs := s.regs.setSeg r v }

/-- `IP`. -/
def State.ip (s : State) : Word := s.regs.ip

/-- `IP <- v`. -/
def State.setIp (s : State) (v : Word) : State := { s with regs := s.regs.setIp v }

/-- `IP <- (IP + L) mod 2^16`, CS unchanged (spec/10_state.md R13, spec/30_encoding.md R84, decision D5). -/
def State.advance (s : State) (len : Nat) : State := s.setIp (s.ip + BitVec.ofNat 16 len)

/-- The flags. -/
def State.flags (s : State) : Flags := s.regs.flags

/-- Write the flags. -/
def State.setFlags (s : State) (f : Flags) : State := { s with regs := s.regs.setFlags f }

/-- What an unlisted byte of MEM or PORT reads as. DESIGN CHOICE, unsafe: log entries 3 and 4. -/
def Memory.unlisted : Byte := 0

/-- The byte at an address. -/
def Memory.read : Memory → Nat → Byte
  | [], _ => Memory.unlisted
  | (k, v) :: m, a => if a = k then v else Memory.read m a

/-- Put a listed byte at its place. -/
def Memory.insert (a : Nat) (b : Byte) : Memory → Memory
  | [] => [(a, b)]
  | (k, v) :: m => if a < k then (a, b) :: (k, v) :: m else (k, v) :: Memory.insert a b m

/-- Write a byte, keeping the canonical form: what an unlisted address reads as is never listed. -/
def Memory.write (m : Memory) (a : Nat) (b : Byte) : Memory :=
  let rest := m.filter (fun c => c.1 != a)
  if b = Memory.unlisted then rest else Memory.insert a b rest

/-- Addresses strictly rising from `lo`, all below `size`, no listed byte equal to the unlisted one. -/
def Memory.wfFrom (size : Nat) : Nat → Memory → Bool
  | _, [] => true
  | lo, (k, v) :: m => decide (lo ≤ k) && decide (k < size) && decide (v ≠ Memory.unlisted) && Memory.wfFrom size (k + 1) m

/-- The canonical form of a byte array of `size` bytes. -/
def Memory.wf (size : Nat) (m : Memory) : Bool := Memory.wfFrom size 0 m

/-- `MemRead(a, 1)` (spec/20_memory.md R42); it cannot fail (R55). -/
def State.byteAt (s : State) (a : Linear) : Byte := s.mem.read a.toNat

/-- `MemRead(a, 2)`: little-endian, the second byte at `(a + 1) mod 2^20` (spec/20_memory.md R43), at any `a` (R44). -/
def State.wordAt (s : State) (a : Linear) : Word := word (s.byteAt (a + 1)) (s.byteAt a)

/-- `MemWrite(a, 1, v)` (spec/20_memory.md R42). -/
def State.setByteAt (s : State) (a : Linear) (v : Byte) : State := { s with mem := s.mem.write a.toNat v }

/-- `MemWrite(a, 2, v)` (spec/20_memory.md R43). -/
def State.setWordAt (s : State) (a : Linear) (v : Word) : State := (s.setByteAt a (lo8 v)).setByteAt (a + 1) (hi8 v)

/-- The byte a port holds (spec/20_memory.md R47, R48). -/
def State.portAt (s : State) (p : Word) : Byte := s.ports.read p.toNat

/-- Put a byte into a port (spec/20_memory.md R48). -/
def State.setPortAt (s : State) (p : Word) (v : Byte) : State := { s with ports := s.ports.write p.toNat v }

/-- Record a port access (spec/20_memory.md R56, decision D21). -/
def State.record (s : State) (e : PortEvent) : State := { s with portEvents := s.portEvents ++ [e] }

/-- The word two consecutive ports hold, the second at `(p + 1) mod 2^16` (spec/20_memory.md R48, decision D7). -/
def State.portWordAt (s : State) (p : Word) : Word := word (s.portAt (p + 1)) (s.portAt p)

/-- `PortRead(p, 1)`: the value, and the state with the access recorded. -/
def State.portRead8 (s : State) (p : Word) : Byte × State := (s.portAt p, s.record (.read8 p (s.portAt p)))

/-- `PortRead(p, 2)`. -/
def State.portRead16 (s : State) (p : Word) : Word × State := (s.portWordAt p, s.record (.read16 p (s.portWordAt p)))

/-- `PortWrite(p, 1, v)`. -/
def State.portWrite8 (s : State) (p : Word) (v : Byte) : State := (s.setPortAt p v).record (.write8 p v)

/-- `PortWrite(p, 2, v)`: one access, low byte to `p`, high byte to `(p + 1) mod 2^16`. -/
def State.portWrite16 (s : State) (p : Word) (v : Word) : State :=
  ((s.setPortAt p (lo8 v)).setPortAt (p + 1) (hi8 v)).record (.write16 p v)

/-- The linear address of byte `k` of the instruction at CS:IP: the offset wraps, CS does not change
(spec/20_memory.md R46, decision D5). -/
def State.fetchAddr (s : State) (k : Nat) : Linear := addr s.regs.cs (s.ip + BitVec.ofNat 16 k)

/-- `Fetch(k, 1)` (spec/20_memory.md R46). -/
def State.fetch8 (s : State) (k : Nat) : Byte := s.byteAt (s.fetchAddr k)

/-- `Fetch(k, 2)`: one word read at the address of its low byte (spec/20_memory.md R46). -/
def State.fetch16 (s : State) (k : Nat) : Word := s.wordAt (s.fetchAddr k)

/-- The reads a decoder may make at CS:IP. A memory read has no side effect (spec/20_memory.md R56), so that a field the format
does not have is read without effect. -/
def State.codeView (s : State) : CodeView :=
  { byte0 := s.fetch8 0, byte1 := s.fetch8 1, byte2 := s.fetch8 2
    word1 := s.fetch16 1, word2 := s.fetch16 2, word3 := s.fetch16 3 }

/-- `addr(CS, IP)`, the watchdog's snapshot (spec/48_step_driver.md R176). -/
def State.curAddr (s : State) : Linear := addr s.regs.cs s.ip

/-- `dataseg(default)`: the override's selector when enabled (spec/20_memory.md R45). -/
def State.dataSeg (s : State) (default : SReg) : Word := if s.ovr.enable then s.ovr.selector else s.seg default

/-- What the four segment-override bytes do to OVR: capture the selector now (spec/46_segment_prefix.md R169). -/
def State.captureOverride (s : State) (r : SReg) : State := { s with ovr := { enable := true, selector := s.seg r } }

/-- The next draw of one bit, and the state in which it is used up (spec/93_implementation_defined.md U1). -/
def State.drawBit (s : State) : Bool × State := (Config.drawBit s.drawCount, { s with drawCount := s.drawCount + 1 })

/-- `raise Fatal(kind, info)`: TAKING an exception on this machine. It writes the HALT record and nothing else; control goes
nowhere (spec/60_exceptions.md R205). -/
def State.raiseFatal (s : State) (kind : FatalKind) (modrm : Option Byte) : State :=
  { s with
    halt := .halted
      { kind := kind, cs := s.regs.cs, ip := s.regs.ip, linear := s.curAddr, opcode := s.curOpcode, modrm := modrm,
        snapshot := s.regs } }

/-- Whether the core is running. -/
def State.isRunning (s : State) : Bool :=
  match s.halt with
  | .running => true
  | .halted _ => false

end Sys2Proof.Machine
end

