-- ==== Sys2Proof/Machine/Flags.lean ====
section
/-! DEFINITION. Every flag computation (spec/43_alu.md) and the rendering of the flags as a word. -/

namespace Sys2Proof.Machine

/-- `zero(r)` (spec/43_alu.md R135). -/
def zeroOf (r : Byte) : Bool := r == 0

/-- `sign(r) = r[7]` (spec/43_alu.md R135, decision D22). -/
def signOf (r : Byte) : Bool := r.getLsbD 7

/-- `parity(r)`: an even number of 1 bits (spec/43_alu.md R135, G2; PRESUMED by the spec from the Intel convention: log entry 18). -/
def parityOf (r : Byte) : Bool := (List.range 8).countP (fun k => r.getLsbD k) % 2 == 0

/-- The flags of `a - b`; TF, IF and DF are kept (spec/43_alu.md R136). -/
def cmpFlags (f : Flags) (a b : Byte) : Flags :=
  let r := a - b
  { f with
    zF := a == b
    cF := decide (a.toNat < b.toNat)
    sF := signOf r
    oF := a.getLsbD 7 != b.getLsbD 7 && r.getLsbD 7 != a.getLsbD 7
    pF := parityOf r
    aF := decide (a.toNat % 16 < b.toNat % 16) }

/-- The flags of `a AND b` with AF given from outside; TF, IF and DF are kept (spec/43_alu.md R137). -/
def testFlags (f : Flags) (a b : Byte) (af : Bool) : Flags :=
  let r := a &&& b
  { f with sF := signOf r, zF := zeroOf r, pF := parityOf r, cF := false, oF := false, aF := af }

/-- The flags word: CF 0, PF 2, AF 4, ZF 6, SF 7, TF 8, IF 9, DF 10, OF 11, the other bits taken from `reserved`, which no rule
gives (spec/10_state.md R14, G1, U3). No instruction reads or writes the word. -/
def Flags.toWord (f : Flags) (reserved : Word) : Word :=
  let at_ := fun (b : Bool) (k : Nat) => (BitVec.ofBool b).setWidth 16 <<< k
  (reserved &&& 0xF02A#16) ||| at_ f.cF 0 ||| at_ f.pF 2 ||| at_ f.aF 4 ||| at_ f.zF 6 ||| at_ f.sF 7 ||| at_ f.tF 8
    ||| at_ f.iF 9 ||| at_ f.dF 10 ||| at_ f.oF 11

/-- CR0 as 32 bits: PE is bit 0, every other bit is 0 (spec/10_state.md R16, decision D10, G5). -/
def State.cr0Word (s : State) : BitVec 32 := (BitVec.ofBool s.cr0Pe).setWidth 32

end Sys2Proof.Machine
end

