-- ==== Sys2Proof/Machine/Alu.lean ====
section
/-! DEFINITION. The ALU instructions (spec/43_alu.md). -/

namespace Sys2Proof.Machine

/-- `3C ib`, CMP AL, imm8: flags only, AL is kept (spec/43_alu.md R136). -/
def execCmpAlImm8 (imm : Byte) (s : State) : Host.Outcome State Fault Refusal :=
  .next ((s.setFlags (cmpFlags s.flags (s.r8 .al) imm)).advance 2)

/-- `A8 ib`, TEST AL, imm8: flags only, AL is kept; AF is a free value (spec/43_alu.md R137; DESIGN CHOICE, safe: log entry 5). -/
def execTestAlImm8 (imm : Byte) (s : State) : Host.Outcome State Fault Refusal :=
  let d := s.drawBit
  .next ((d.2.setFlags (testFlags s.flags (s.r8 .al) imm d.1)).advance 2)

end Sys2Proof.Machine
end

