-- ==== Sys2Proof/Machine/Operands.lean ====
section
/-! DEFINITION. Every operand form: effective addresses, ModR/M operands, direct addresses, port numbers, jump targets. -/

namespace Sys2Proof.Machine

/-- The base of a memory form, modulo 2^16 (spec/30_encoding.md R74). -/
def baseOffset (f : RegFile) : Base → Word
  | .bxSi => f.bx + f.si
  | .bxDi => f.bx + f.di
  | .bpSi => f.bp + f.si
  | .bpDi => f.bp + f.di
  | .si => f.si
  | .di => f.di
  | .bp => f.bp
  | .bx => f.bx

/-- Whether BP is in the base (spec/30_encoding.md R74). -/
def usesBp : Base → Bool
  | .bpSi | .bpDi | .bp => true
  | .bxSi | .bxDi | .si | .di | .bx => false

/-- The effective offset, reduced modulo 2^16 before segmentation (spec/30_encoding.md R73, R74). -/
def eaOffset (f : RegFile) : EA → Word
  | .direct d => d
  | .based b => baseOffset f b
  | .disp8 b d => baseOffset f b + sext16 d
  | .disp16 b d => baseOffset f b + d

/-- The default segment of a base: SS when BP is in it, else DS (spec/20_memory.md R45, decision D18). -/
def baseSeg (b : Base) : SReg := if usesBp b then .ss else .ds

/-- The default segment of a memory form: the direct displacement has no BP (spec/30_encoding.md R73). -/
def eaSeg : EA → SReg
  | .direct _ => .ds
  | .based b => baseSeg b
  | .disp8 b _ => baseSeg b
  | .disp16 b _ => baseSeg b

/-- `d.linear`: the linear address of a memory form, with the override if one is active (spec/30_encoding.md R73). -/
def State.eaLinear (s : State) (ea : EA) : Linear := addr (s.dataSeg (eaSeg ea)) (eaOffset s.regs ea)

/-- Where a decoded operand lies: the part of the descriptor that is read and written through (spec/30_encoding.md R73, R86). -/
inductive Place (ρ : Type) where
  | reg (r : ρ)
  | mem (a : Linear)
deriving DecidableEq, Repr

/-- Decode an operand once, from the registers before the instruction writes anything (spec/30_encoding.md R73, R74). -/
def State.place {ρ : Type} (s : State) : RM ρ → Place ρ
  | .reg r => .reg r
  | .mem ea => .mem (s.eaLinear ea)

/-- `ReadRM8(d)` (spec/30_encoding.md R86). -/
def State.readPlace8 (s : State) : Place Reg8 → Byte
  | .reg r => s.r8 r
  | .mem a => s.byteAt a

/-- `ReadRM16(d)` (spec/30_encoding.md R86). -/
def State.readPlace16 (s : State) : Place Reg16 → Word
  | .reg r => s.r16 r
  | .mem a => s.wordAt a

/-- `WriteRM8(d, v)` (spec/30_encoding.md R86). No instruction of the table writes an 8-bit `r/m` operand. -/
def State.writePlace8 (s : State) (v : Byte) : Place Reg8 → State
  | .reg r => s.setR8 r v
  | .mem a => s.setByteAt a v

/-- `WriteRM16(d, v)` (spec/30_encoding.md R86). -/
def State.writePlace16 (s : State) (v : Word) : Place Reg16 → State
  | .reg r => s.setR16 r v
  | .mem a => s.setWordAt a v

/-- `addr(dataseg(DS), off)`: the address of the direct-address forms (spec/40_mov.md R100 to R103). -/
def State.directAddr (s : State) (off : Word) : Linear := addr (s.dataSeg .ds) off

/-- The port number of the immediate forms (spec/44_io.md R153). -/
def immPort (imm : Byte) : Word := zext16 imm

/-- The port number of the DX forms (spec/44_io.md R153). -/
def State.dxPort (s : State) : Word := s.r16 .dx

/-- `(IP + L + sext_16(rel)) mod 2^16` (spec/41_control_transfer.md R125 a). -/
def State.shortTarget (s : State) (rel : Byte) : Word := s.ip + 2 + sext16 rel

/-- A conditional short jump of two bytes (spec/41_control_transfer.md R122 to R125). -/
def State.jumpShortIf (s : State) (taken : Bool) (rel : Byte) : State :=
  if taken then s.setIp (s.shortTarget rel) else s.advance 2

end Sys2Proof.Machine
end

