-- ==== Sys2Proof/Machine/Control.lean ====
section
/-! DEFINITION. Control transfer (spec/41_control_transfer.md). -/

namespace Sys2Proof.Machine

/-- `EA cd`, JMP seg:off (spec/41_control_transfer.md R120). -/
def execJmpFar (off seg : Word) (s : State) : Host.Outcome State Fault Refusal :=
  .next ((s.setSeg .cs seg).setIp off)

/-- `E9 cw`, JMP rel16 (spec/41_control_transfer.md R121). -/
def execJmpRel16 (rel : Word) (s : State) : Host.Outcome State Fault Refusal :=
  .next (s.setIp (s.ip + 3 + rel))

/-- `74 cb`, JZ rel8 (spec/41_control_transfer.md R122). -/
def execJzRel8 (rel : Byte) (s : State) : Host.Outcome State Fault Refusal :=
  .next (s.jumpShortIf s.flags.zF rel)

/-- `75 cb`, JNZ rel8 (spec/41_control_transfer.md R123). -/
def execJnzRel8 (rel : Byte) (s : State) : Host.Outcome State Fault Refusal :=
  .next (s.jumpShortIf (!s.flags.zF) rel)

/-- `E3 cb`, JCXZ rel8: all 16 bits of CX, no flag (spec/41_control_transfer.md R124). -/
def execJcxzRel8 (rel : Byte) (s : State) : Host.Outcome State Fault Refusal :=
  .next (s.jumpShortIf (s.r16 .cx == 0) rel)

end Sys2Proof.Machine
end

