-- ==== Sys2Proof/Machine/Exchange.lean ====
section
/-! DEFINITION. Exchange and no-op (spec/45_xchg_nop.md). -/

namespace Sys2Proof.Machine

/-- `87 /r`, XCHG r/m16, r16: the operand is decoded once, both old values are read before either write
(spec/45_xchg_nop.md R160, conflict C3). -/
def execXchgRm16R16 (rm : RM Reg16) (r : Reg16) (s : State) : Host.Outcome State Fault Refusal :=
  let d := s.place rm
  .next (((s.writePlace16 (s.r16 r) d).setR16 r (s.readPlace16 d)).advance (1 + rm.total))

/-- `90`, NOP (spec/45_xchg_nop.md R161). -/
def execNop (s : State) : Host.Outcome State Fault Refusal := .next (s.advance 1)

end Sys2Proof.Machine
end

