-- ==== Sys2Proof/Machine/FlagControl.lean ====
section
/-! DEFINITION. Flag control (spec/42_flag_control.md). -/

namespace Sys2Proof.Machine

/-- `FA`, CLI: the write, not the stub (spec/42_flag_control.md R130, decision D15). -/
def execCli (s : State) : Host.Outcome State Fault Refusal :=
  .next ((s.setFlags { s.flags with iF := false }).advance 1)

/-- `FC`, CLD (spec/42_flag_control.md R131). -/
def execCld (s : State) : Host.Outcome State Fault Refusal :=
  .next ((s.setFlags { s.flags with dF := false }).advance 1)

end Sys2Proof.Machine
end

