-- ==== Sys2Proof/Machine/Mov.lean ====
section
/-! DEFINITION. Data movement (spec/40_mov.md). -/

namespace Sys2Proof.Machine

/-- `A0 ib`, MOV AL, [disp8] (spec/40_mov.md R100). -/
def execMovAlDisp8 (disp : Byte) (s : State) : Host.Outcome State Fault Refusal :=
  .next ((s.setR8 .al (s.byteAt (s.directAddr (zext16 disp)))).advance 2)

/-- `A1 iw`, MOV AX, [disp16] (spec/40_mov.md R101). -/
def execMovAxDisp16 (disp : Word) (s : State) : Host.Outcome State Fault Refusal :=
  .next ((s.setR16 .ax (s.wordAt (s.directAddr disp))).advance 3)

/-- `A2 ib`, MOV [disp8], AL (spec/40_mov.md R102). -/
def execMovDisp8Al (disp : Byte) (s : State) : Host.Outcome State Fault Refusal :=
  .next ((s.setByteAt (s.directAddr (zext16 disp)) (s.r8 .al)).advance 2)

/-- `A3 iw`, MOV [disp16], AX (spec/40_mov.md R103). -/
def execMovDisp16Ax (disp : Word) (s : State) : Host.Outcome State Fault Refusal :=
  .next ((s.setWordAt (s.directAddr disp) (s.r16 .ax)).advance 3)

/-- `B0+r ib`, MOV r8, imm8 (spec/40_mov.md R104). -/
def execMovR8Imm8 (r : Reg8) (imm : Byte) (s : State) : Host.Outcome State Fault Refusal :=
  .next ((s.setR8 r imm).advance 2)

/-- `B8+r iw`, MOV r16, imm16 (spec/40_mov.md R105). -/
def execMovR16Imm16 (r : Reg16) (imm : Word) (s : State) : Host.Outcome State Fault Refusal :=
  .next ((s.setR16 r imm).advance 3)

/-- `8A /r`, MOV r8, r/m8 (spec/40_mov.md R106). -/
def execMovR8Rm8 (r : Reg8) (rm : RM Reg8) (s : State) : Host.Outcome State Fault Refusal :=
  .next ((s.setR8 r (s.readPlace8 (s.place rm))).advance (1 + rm.total))

/-- `8B /r`, MOV r16, r/m16 (spec/40_mov.md R107). -/
def execMovR16Rm16 (r : Reg16) (rm : RM Reg16) (s : State) : Host.Outcome State Fault Refusal :=
  .next ((s.setR16 r (s.readPlace16 (s.place rm))).advance (1 + rm.total))

/-- `8C /r`, MOV r/m16, Sreg (spec/40_mov.md R108). A field of 4 to 7 takes the fatal condition before any write
(spec/30_encoding.md R81, spec/60_exceptions.md R202). -/
def execMovRm16Sreg (rm : RM Reg16) (field : BitVec 3) (s : State) : Host.Outcome State Fault Refusal :=
  match SReg.ofField field with
  | none => .next (s.raiseFatal .unrecognizedSubencoding (some (rm.modrmByte Reg16.field field)))
  | some sr => .next ((s.writePlace16 (s.seg sr) (s.place rm)).advance (1 + rm.total))

/-- `8E /r`, MOV Sreg, r/m16; CS may be written (spec/40_mov.md R109, decision D16). A field of 4 to 7 takes the fatal
condition before the data read and any write (spec/30_encoding.md R81, spec/60_exceptions.md R202). -/
def execMovSregRm16 (field : BitVec 3) (rm : RM Reg16) (s : State) : Host.Outcome State Fault Refusal :=
  match SReg.ofField field with
  | none => .next (s.raiseFatal .unrecognizedSubencoding (some (rm.modrmByte Reg16.field field)))
  | some sr => .next ((s.setSeg sr (s.readPlace16 (s.place rm))).advance (1 + rm.total))

end Sys2Proof.Machine
end

