-- ==== Sys2Proof/Machine/PortIo.lean ====
section
/-! DEFINITION. Port input and output (spec/44_io.md). -/

namespace Sys2Proof.Machine

/-- `E4 ib`, IN AL, imm8 (spec/44_io.md R145). -/
def execInAlImm8 (imm : Byte) (s : State) : Host.Outcome State Fault Refusal :=
  let io := s.portRead8 (immPort imm)
  .next ((io.2.setR8 .al io.1).advance 2)

/-- `E5 ib`, IN AX, imm8 (spec/44_io.md R146). -/
def execInAxImm8 (imm : Byte) (s : State) : Host.Outcome State Fault Refusal :=
  let io := s.portRead16 (immPort imm)
  .next ((io.2.setR16 .ax io.1).advance 2)

/-- `EC`, IN AL, DX (spec/44_io.md R147, conflict C1). -/
def execInAlDx (s : State) : Host.Outcome State Fault Refusal :=
  let io := s.portRead8 s.dxPort
  .next ((io.2.setR8 .al io.1).advance 1)

/-- `ED`, IN AX, DX (spec/44_io.md R148, conflict C1). -/
def execInAxDx (s : State) : Host.Outcome State Fault Refusal :=
  let io := s.portRead16 s.dxPort
  .next ((io.2.setR16 .ax io.1).advance 1)

/-- `E6 ib`, OUT imm8, AL (spec/44_io.md R149). -/
def execOutImm8Al (imm : Byte) (s : State) : Host.Outcome State Fault Refusal :=
  .next ((s.portWrite8 (immPort imm) (s.r8 .al)).advance 2)

/-- `E7 ib`, OUT imm8, AX (spec/44_io.md R150). -/
def execOutImm8Ax (imm : Byte) (s : State) : Host.Outcome State Fault Refusal :=
  .next ((s.portWrite16 (immPort imm) (s.r16 .ax)).advance 2)

/-- `EE`, OUT DX, AL (spec/44_io.md R151). -/
def execOutDxAl (s : State) : Host.Outcome State Fault Refusal :=
  .next ((s.portWrite8 s.dxPort (s.r8 .al)).advance 1)

/-- `EF`, OUT DX, AX (spec/44_io.md R152). -/
def execOutDxAx (s : State) : Host.Outcome State Fault Refusal :=
  .next ((s.portWrite16 s.dxPort (s.r16 .ax)).advance 1)

end Sys2Proof.Machine
end

