-- ==== Sys2Proof/Machine/SegmentOverride.lean ====
section
/-! DEFINITION. The segment-override bytes, each an instruction of its own (spec/46_segment_prefix.md R169). -/

namespace Sys2Proof.Machine

/-- `26`, ES: (spec/46_segment_prefix.md R165). -/
def execSegEs (s : State) : Host.Outcome State Fault Refusal := .next ((s.captureOverride .es).advance 1)

/-- `2E`, CS: (spec/46_segment_prefix.md R166). -/
def execSegCs (s : State) : Host.Outcome State Fault Refusal := .next ((s.captureOverride .cs).advance 1)

/-- `36`, SS: (spec/46_segment_prefix.md R167). -/
def execSegSs (s : State) : Host.Outcome State Fault Refusal := .next ((s.captureOverride .ss).advance 1)

/-- `3E`, DS: (spec/46_segment_prefix.md R168). -/
def execSegDs (s : State) : Host.Outcome State Fault Refusal := .next ((s.captureOverride .ds).advance 1)

end Sys2Proof.Machine
end

