-- ==== Sys2Proof/Machine/Dispatch.lean ====
section
/-! DEFINITION. The meaning of every instruction (spec/48_step_driver.md R175, action 5), one arm per constructor. -/

namespace Sys2Proof.Machine

def exec (i : Instr) (s : State) : Host.Outcome State Fault Refusal :=
  match i with
  | .segEs => Sys2Proof.Machine.execSegEs s
  | .segCs => Sys2Proof.Machine.execSegCs s
  | .segSs => Sys2Proof.Machine.execSegSs s
  | .cmpAlImm8 imm => Sys2Proof.Machine.execCmpAlImm8 imm s
  | .segDs => Sys2Proof.Machine.execSegDs s
  | .jzRel8 rel => Sys2Proof.Machine.execJzRel8 rel s
  | .jnzRel8 rel => Sys2Proof.Machine.execJnzRel8 rel s
  | .xchgRm16R16 rm r => Sys2Proof.Machine.execXchgRm16R16 rm r s
  | .movR8Rm8 r rm => Sys2Proof.Machine.execMovR8Rm8 r rm s
  | .movR16Rm16 r rm => Sys2Proof.Machine.execMovR16Rm16 r rm s
  | .movRm16Sreg rm field => Sys2Proof.Machine.execMovRm16Sreg rm field s
  | .movSregRm16 field rm => Sys2Proof.Machine.execMovSregRm16 field rm s
  | .nop => Sys2Proof.Machine.execNop s
  | .movAlDisp8 disp => Sys2Proof.Machine.execMovAlDisp8 disp s
  | .movAxDisp16 disp => Sys2Proof.Machine.execMovAxDisp16 disp s
  | .movDisp8Al disp => Sys2Proof.Machine.execMovDisp8Al disp s
  | .movDisp16Ax disp => Sys2Proof.Machine.execMovDisp16Ax disp s
  | .testAlImm8 imm => Sys2Proof.Machine.execTestAlImm8 imm s
  | .movR8Imm8 r imm => Sys2Proof.Machine.execMovR8Imm8 r imm s
  | .movR16Imm16 r imm => Sys2Proof.Machine.execMovR16Imm16 r imm s
  | .jcxzRel8 rel => Sys2Proof.Machine.execJcxzRel8 rel s
  | .inAlImm8 imm => Sys2Proof.Machine.execInAlImm8 imm s
  | .inAxImm8 imm => Sys2Proof.Machine.execInAxImm8 imm s
  | .outImm8Al imm => Sys2Proof.Machine.execOutImm8Al imm s
  | .outImm8Ax imm => Sys2Proof.Machine.execOutImm8Ax imm s
  | .jmpRel16 rel => Sys2Proof.Machine.execJmpRel16 rel s
  | .jmpFar off seg => Sys2Proof.Machine.execJmpFar off seg s
  | .inAlDx => Sys2Proof.Machine.execInAlDx s
  | .inAxDx => Sys2Proof.Machine.execInAxDx s
  | .outDxAl => Sys2Proof.Machine.execOutDxAl s
  | .outDxAx => Sys2Proof.Machine.execOutDxAx s
  | .cli => Sys2Proof.Machine.execCli s
  | .cld => Sys2Proof.Machine.execCld s

end Sys2Proof.Machine
end

