-- ==== Sys2Proof/Machine/Driver.lean ====
section
/-! DEFINITION. What the step driver does around an instruction (spec/48_step_driver.md R175 to R177), and placing an
instruction where the driver fetches. -/

namespace Sys2Proof.Machine

/-- Actions 1 and 2: this step's address is the one last executed (spec/48_step_driver.md R176). -/
def State.watchdogTrips (s : State) : Bool := s.lastExec == some s.curAddr

/-- Action 2's fatal condition: CUR_OPCODE is not read again (spec/60_exceptions.md R203). -/
def State.haltNotAdvanced (s : State) : State := s.raiseFatal .ipNotAdvanced none

/-- Action 3: `CUR_OPCODE <- Fetch(0, 1)`. -/
def State.fetchOpcode (s : State) : State := { s with curOpcode := s.fetch8 0 }

/-- Action 4's lookup, with the operands of the instruction found (spec/30_encoding.md R78). -/
def State.lookup (s : State) : Except DecodeError Instr := decode s.codeView

/-- Action 4's fatal condition (spec/60_exceptions.md R201). -/
def State.haltUnknownOpcode (s : State) : State := s.fetchOpcode.raiseFatal .unknownOpcode none

/-- The four segment-override bytes (spec/48_step_driver.md R177). -/
def isOverrideByte (b : Byte) : Bool := b == 0x26 || b == 0x2E || b == 0x36 || b == 0x3E

/-- Actions 5a and 6, on the state the handler left: end the override unless the opcode set one, and record the address. A
fatal condition raised by the handler has ended the step: nothing more is done (spec/48_step_driver.md R177,
spec/60_exceptions.md R205). -/
def State.complete (cur : Linear) (s : State) : State :=
  match s.halt with
  | .halted _ => s
  | .running =>
    { s with
      ovr := if isOverrideByte s.curOpcode then s.ovr else { s.ovr with enable := false }
      lastExec := some cur }

/-- Store a field where `Fetch` reads it. -/
def State.placePiece (s : State) (k : Nat) : Piece → State
  | .byte b => s.setByteAt (s.fetchAddr k) b
  | .word w => s.setWordAt (s.fetchAddr k) w

/-- Store the fields of an instruction from byte `k` on. -/
def State.placePieces (s : State) : Nat → List Piece → State
  | _, [] => s
  | k, p :: ps => (s.placePiece k p).placePieces (k + p.size) ps

/-- Let the next step pass the two checks before its fetch: not halted, and not at the address last executed. -/
def State.readyToFetch (s : State) : State :=
  { s with halt := .running, lastExec := if s.watchdogTrips then none else s.lastExec }

/-- Store a table word where the next step fetches. -/
def State.placeTableWord (s : State) (nbits w : Nat) : State :=
  s.readyToFetch.placePieces 0 (fetchPieces (tableBytes nbits w))

end Sys2Proof.Machine
end

