-- ==== Sys2Proof/Machine/Step.lean ====
section
/-! DEFINITION. One step (spec/48_step_driver.md R175), and the placing of an instruction for it. -/

namespace Sys2Proof.Machine

/-- One fetch-decode-execute transition, in the order of spec/48_step_driver.md R175. A fatal condition is a next state whose
HALT is set; a halted core has no step (R179). -/
def step (s : State) : Host.Outcome State Fault Refusal :=
  match s.halt with
  | .halted r => .fault (.halted r)
  | .running =>
    if s.watchdogTrips then .next s.haltNotAdvanced
    else
      match s.lookup with
      | .error _ => .next s.haltUnknownOpcode
      | .ok i =>
        match exec i s.fetchOpcode with
        | .next t => .next (t.complete s.curAddr)
        | .fault f => .fault f
        | .refused r => .refused r

/-- The state with a table word stored where `step` fetches its next instruction (log entry 9). -/
def State.withFetchWord (s : State) (nbits w : Nat) : State := s.placeTableWord nbits w

end Sys2Proof.Machine
end

