-- ==== Sys2Proof/Machine/Events.lean ====
section
/-! DEFINITION. What may happen between two steps, and only there (spec/48_step_driver.md R178): `reset`, delivery of a bus
message (spec/49_mode_switch.md), changes of MEM and PORT by the environment (spec/20_memory.md R52). -/

namespace Sys2Proof.Machine

/-- A message on the bus, by name (spec/49_mode_switch.md section 1; DESIGN CHOICE, safe: log entry 11). -/
inductive MsgName where
  | requestCpuModeswitch
  | globalCpuModeswitch
  | globalLockBiosMemRegion
  | other (id : Nat)
deriving DecidableEq, Repr

/-- A message delivered to the core. -/
structure BusMsg where
  name : MsgName
  payload : List Byte
deriving DecidableEq, Repr

/-- An event of the machine and its environment; `step` is one of them (spec/00_scope.md R1). -/
inductive Event where
  | step
  | reset
  | deliver (m : BusMsg)
  | writeMem (a : Linear) (v : Byte)
  | writePort (p : Word) (v : Byte)
deriving DecidableEq, Repr

/-- The mode-switch transition, for any target byte (spec/49_mode_switch.md R191, R192). -/
def State.switchMode (P : Config.Params) (m : Byte) (s : State) : State :=
  { s with
    mode := m
    cr0Pe := if m = P.modeProtected then true else if m = P.modeReal then false else s.cr0Pe
    outMsgs := s.outMsgs ++ [.globalCpuModeswitch m] }

/-- `reset`, not accepted by a halted core (spec/70_reset_and_hazards.md R221, spec/60_exceptions.md R206). -/
def resetEvent (s : State) : Host.Outcome State Fault Refusal :=
  match s.halt with
  | .halted r => .fault (.halted r)
  | .running => .next s.resetWrites

/-- What the core does with a message: only the mode-switch request is consumed; its payload is one byte, or the model refuses it
(spec/49_mode_switch.md R195). A halted core does not process one (spec/60_exceptions.md R206). -/
def deliver (P : Config.Params) (m : BusMsg) (s : State) : Host.Outcome State Fault Refusal :=
  match s.halt with
  | .halted r => .fault (.halted r)
  | .running =>
    match m.name with
    | .requestCpuModeswitch =>
      match m.payload with
      | [b] => .next (s.switchMode P b)
      | _ => .refused .malformedModeSwitchRequest
    | .globalCpuModeswitch => .next s
    | .globalLockBiosMemRegion => .next s
    | .other _ => .next s

/-- One event. A change of MEM or PORT by the environment touches nothing else (spec/20_memory.md R52, R178). -/
def event (P : Config.Params) (e : Event) (s : State) : Host.Outcome State Fault Refusal :=
  match e with
  | .step => step s
  | .reset => resetEvent s
  | .deliver m => deliver P m s
  | .writeMem a v => .next (s.setByteAt a v)
  | .writePort p v => .next (s.setPortAt p v)

end Sys2Proof.Machine
end

