-- ==== Sys2Proof/Safety.lean ====
section
/-! DEFINITION. The terms that claims about the machine use: frames, the machine's invariant, and the numeric readings of the
spec's tables, written apart from the decoder and the operand functions they are compared with. -/

namespace Sys2Proof.Safety

open Sys2Proof.Machine

/-- The nine flags by name (spec/10_state.md R14). -/
inductive FlagName where
  | cf | pf | af | zf | sf | tf | iF | df | oF
deriving DecidableEq, Repr

/-- One flag of the nine. -/
def flag (f : Flags) : FlagName → Bool
  | .cf => f.cF | .pf => f.pF | .af => f.aF | .zf => f.zF | .sf => f.sF | .tf => f.tF | .iF => f.iF | .df => f.dF | .oF => f.oF

/-- What an instruction may write, IP apart. -/
inductive Part where
  | gpr (r : Reg16)
  | seg (r : SReg)
  | flag (f : FlagName)
  | ovr
  | mem
  | ports
  | draws
  | halt
deriving DecidableEq, Repr

/-- From `s` to `t` nothing changed but IP and the parts listed. CR0, MODE, CUR_OPCODE, LAST_EXEC and OUT_MSGS never change: no
instruction writes them. -/
def Framed (written : List Part) (s t : State) : Prop :=
  (∀ r, .gpr r ∉ written → t.r16 r = s.r16 r) ∧
  (∀ r, .seg r ∉ written → t.seg r = s.seg r) ∧
  (∀ f, .flag f ∉ written → flag t.flags f = flag s.flags f) ∧
  (.ovr ∉ written → t.ovr = s.ovr) ∧
  (.mem ∉ written → ∀ a, t.byteAt a = s.byteAt a) ∧
  (.ports ∉ written → (∀ p, t.portAt p = s.portAt p) ∧ t.portEvents = s.portEvents) ∧
  (.draws ∉ written → t.drawCount = s.drawCount) ∧
  (.halt ∉ written → t.halt = s.halt) ∧
  t.cr0Pe = s.cr0Pe ∧ t.mode = s.mode ∧ t.curOpcode = s.curOpcode ∧ t.lastExec = s.lastExec ∧ t.outMsgs = s.outMsgs

/-- A HALT record that agrees with the state it stands in: nothing wakes or changes a halted core
(spec/60_exceptions.md R205, R206, R214). -/
def haltAgrees (s : State) : Bool :=
  match s.halt with
  | .running => true
  | .halted r =>
    r.snapshot == s.regs && r.cs == s.regs.cs && r.ip == s.regs.ip && r.linear == addr r.cs r.ip && r.opcode == s.curOpcode
      && (r.modrm.isSome == (r.kind == .unrecognizedSubencoding))

/-- The machine's invariant: both byte arrays in canonical form and within their sizes, a HALT record that agrees. -/
def inv (s : State) : Bool := s.mem.wf Config.memSize && s.ports.wf Config.portSize && haltAgrees s

/-- A jump: an instruction that may assign IP (spec/41_control_transfer.md). -/
def isJump : Instr → Bool
  | .jmpFar _ _ | .jmpRel16 _ | .jzRel8 _ | .jnzRel8 _ | .jcxzRel8 _ => true
  | .segEs | .segCs | .segSs | .segDs | .cmpAlImm8 _ | .testAlImm8 _ | .xchgRm16R16 _ _ | .movR8Rm8 _ _ | .movR16Rm16 _ _
  | .movRm16Sreg _ _ | .movSregRm16 _ _ | .nop | .movAlDisp8 _ | .movAxDisp16 _ | .movDisp8Al _ | .movDisp16Ax _
  | .movR8Imm8 _ _ | .movR16Imm16 _ _ | .inAlImm8 _ | .inAxImm8 _ | .outImm8Al _ | .outImm8Ax _ | .inAlDx | .inAxDx
  | .outDxAl | .outDxAx | .cli | .cld => false

/-- Whether an `r/m` operand is a memory location. -/
def isMem {ρ : Type} : RM ρ → Bool
  | .reg _ => false
  | .mem _ => true

/-- The instructions that access data memory: read it or write it (spec/20_memory.md R56). -/
def accessesMemory : Instr → Bool
  | .movAlDisp8 _ | .movAxDisp16 _ | .movDisp8Al _ | .movDisp16Ax _ => true
  | .xchgRm16R16 rm _ => isMem rm
  | .movR8Rm8 _ rm => isMem rm
  | .movR16Rm16 _ rm => isMem rm
  | .movRm16Sreg rm _ => isMem rm
  | .movSregRm16 _ rm => isMem rm
  | .segEs | .segCs | .segSs | .segDs | .cmpAlImm8 _ | .testAlImm8 _ | .jzRel8 _ | .jnzRel8 _ | .jcxzRel8 _ | .jmpRel16 _
  | .jmpFar _ _ | .nop | .movR8Imm8 _ _ | .movR16Imm16 _ _ | .inAlImm8 _ | .inAxImm8 _ | .outImm8Al _ | .outImm8Ax _
  | .inAlDx | .inAxDx | .outDxAl | .outDxAx | .cli | .cld => false

/-- Where an instruction stores, and how many bytes: the 8-bit and 16-bit data writes of spec/20_memory.md R56. -/
def storesTo (s : State) : Instr → Option (Linear × Nat)
  | .movDisp8Al d => some (s.directAddr (zext16 d), 1)
  | .movDisp16Ax d => some (s.directAddr d, 2)
  | .xchgRm16R16 (.mem ea) _ => some (s.eaLinear ea, 2)
  | .movRm16Sreg (.mem ea) f => if (SReg.ofField f).isSome then some (s.eaLinear ea, 2) else none
  | .xchgRm16R16 (.reg _) _ | .movRm16Sreg (.reg _) _ => none
  | .segEs | .segCs | .segSs | .segDs | .cmpAlImm8 _ | .testAlImm8 _ | .jzRel8 _ | .jnzRel8 _ | .jcxzRel8 _ | .jmpRel16 _
  | .jmpFar _ _ | .nop | .movR8Imm8 _ _ | .movR16Imm16 _ _ | .inAlImm8 _ | .inAxImm8 _ | .outImm8Al _ | .outImm8Ax _
  | .inAlDx | .inAxDx | .outDxAl | .outDxAx | .cli | .cld | .movAlDisp8 _ | .movAxDisp16 _ | .movR8Rm8 _ _
  | .movR16Rm16 _ _ | .movSregRm16 _ _ => none

/-- The one port access an instruction issues (spec/20_memory.md R56, spec/44_io.md). -/
def portAccess (s : State) : Instr → Option PortEvent
  | .inAlImm8 n => some (.read8 (zext16 n) (s.portAt (zext16 n)))
  | .inAxImm8 n => some (.read16 (zext16 n) (s.portWordAt (zext16 n)))
  | .inAlDx => some (.read8 (s.r16 .dx) (s.portAt (s.r16 .dx)))
  | .inAxDx => some (.read16 (s.r16 .dx) (s.portWordAt (s.r16 .dx)))
  | .outImm8Al n => some (.write8 (zext16 n) (s.r8 .al))
  | .outImm8Ax n => some (.write16 (zext16 n) (s.r16 .ax))
  | .outDxAl => some (.write8 (s.r16 .dx) (s.r8 .al))
  | .outDxAx => some (.write16 (s.r16 .dx) (s.r16 .ax))
  | .segEs | .segCs | .segSs | .segDs | .cmpAlImm8 _ | .testAlImm8 _ | .jzRel8 _ | .jnzRel8 _ | .jcxzRel8 _ | .jmpRel16 _
  | .jmpFar _ _ | .nop | .movR8Imm8 _ _ | .movR16Imm16 _ _ | .cli | .cld | .movAlDisp8 _ | .movAxDisp16 _ | .movDisp8Al _
  | .movDisp16Ax _ | .movR8Rm8 _ _ | .movR16Rm16 _ _ | .movRm16Sreg _ _ | .movSregRm16 _ _ | .xchgRm16R16 _ _ => none

/-- The unmapped primary bytes as spec/30_encoding.md R79 lists them. -/
def unmappedByte (b : Nat) : Bool :=
  b ≤ 0x25 || (0x27 ≤ b && b ≤ 0x2D) || (0x2F ≤ b && b ≤ 0x35) || (0x37 ≤ b && b ≤ 0x3B) || b == 0x3D ||
  (0x3F ≤ b && b ≤ 0x73) || (0x76 ≤ b && b ≤ 0x86) || b == 0x88 || b == 0x89 || b == 0x8D || b == 0x8F ||
  (0x91 ≤ b && b ≤ 0x9F) || (0xA4 ≤ b && b ≤ 0xA7) || (0xA9 ≤ b && b ≤ 0xAF) || (0xC0 ≤ b && b ≤ 0xE2) ||
  b == 0xE8 || b == 0xEB || (0xF0 ≤ b && b ≤ 0xF9) || b == 0xFB || 0xFD ≤ b

/-- The length table of spec/30_encoding.md R83, on the primary byte and the two fields of the ModR/M byte. -/
def lengthTable (b0 mod rm : Nat) : Nat :=
  if b0 ∈ [0x26, 0x2E, 0x36, 0x3E, 0x90, 0xEC, 0xED, 0xEE, 0xEF, 0xFA, 0xFC] then 1
  else if b0 ∈ [0x3C, 0x74, 0x75, 0xA0, 0xA2, 0xA8, 0xE3, 0xE4, 0xE5, 0xE6, 0xE7] ∨ (0xB0 ≤ b0 ∧ b0 ≤ 0xB7) then 2
  else if b0 ∈ [0xA1, 0xA3, 0xE9] ∨ (0xB8 ≤ b0 ∧ b0 ≤ 0xBF) then 3
  else if b0 = 0xEA then 5
  else if mod = 3 then 2
  else if mod = 1 then 3
  else if mod = 2 then 4
  else if rm = 6 then 4
  else 2

/-- The base sum of an `rm` field, before reduction (spec/30_encoding.md R74). -/
def rmBase (f : RegFile) (rm : Nat) : Nat :=
  match rm with
  | 0 => f.bx.toNat + f.si.toNat
  | 1 => f.bx.toNat + f.di.toNat
  | 2 => f.bp.toNat + f.si.toNat
  | 3 => f.bp.toNat + f.di.toNat
  | 4 => f.si.toNat
  | 5 => f.di.toNat
  | 6 => f.bp.toNat
  | _ => f.bx.toNat

/-- `signed_8(v)` (spec/00_scope.md section 6). -/
def signed8 (v : Byte) : Int := if v.toNat < 128 then v.toNat else (v.toNat : Int) - 256

/-- The signed displacement that `sext_16` adds, as an integer. -/
def signed16 (v : Word) : Int := if v.toNat < 32768 then v.toNat else (v.toNat : Int) - 65536

/-- The state with another mode and CR0 bit. -/
def withMode (m : Byte) (pe : Bool) (s : State) : State := { s with mode := m, cr0Pe := pe }

/-- The state with another data memory. -/
def withMem (m : Memory) (s : State) : State := { s with mem := m }

/-- A change of states carried to an outcome. -/
def onNext (f : State → State) : Host.Outcome State Fault Refusal → Host.Outcome State Fault Refusal
  | .next s => .next (f s)
  | .fault r => .fault r
  | .refused r => .refused r

/-- The bytes of an instruction stand at CS:IP, offset by offset. -/
def bytesAtPc (s : State) (bs : List Byte) : Prop := ∀ k, k < bs.length → s.fetch8 k = bs.getD k 0

end Sys2Proof.Safety
end

