-- ==== Sys2Proof/Certificates/Slice0/Obligations.lean ====
section
/-! DEFINITION. The statements for the provers. Where a statement rests on a choice of the spec's own (a decision D<n>) or of the
model's (a log entry), its docstring says so. -/

open Sys2Proof Sys2Proof.Machine Sys2Proof.Safety

/-! ## Encoding -/

/-- Decoding the bytes of a well-formed instruction gives it back, with every operand at every value, whatever follows
(spec/30_encoding.md R71 to R78). It rests on decision D2 for the opcode bytes of the segment overrides (log entry 13),
conflict C2 for the one-byte displacement of A0 and A2 (log entry 14) and conflict C1 for the pairing of IN (log entry 22). -/
def Obligations.DecodeOfEncode : Prop :=
  ∀ (i : Instr) (rest : List Byte), i.wf = true → decodeBytes (encode i ++ rest) = .ok (i, rest)

/-- Bytes that decode are the bytes of the instruction they decode to, which is well-formed: no bit is dropped
(spec/30_encoding.md R71 to R78). It rests on decision D2 (log entry 13), conflict C2 (log entry 14) and conflict C1 (log entry
22), as `DecodeOfEncode` does. -/
def Obligations.EncodeOfDecode : Prop :=
  ∀ (bs rest : List Byte) (i : Instr), decodeBytes bs = .ok (i, rest) → bs = encode i ++ rest ∧ i.wf = true

/-- Five words of the spec's scenarios and vectors decode to the instructions they stand for (spec/95_test_vectors.md sections
1.2, 2.2, 2.3), and a word that begins with the unmapped byte 0F is refused by name (spec/30_encoding.md R79,
spec/95_test_vectors.md section 2.9). The refusal rests on decision D1, which closes the set (log entry 22). -/
def Obligations.SampleWordsDecode : Prop :=
  decodeBytes [0xB0, 0x2A] = .ok (.movR8Imm8 .al 0x2A, []) ∧
  decodeBytes [0xEA, 0x00, 0x10, 0x00, 0x20] = .ok (.jmpFar 0x1000 0x2000, []) ∧
  decodeBytes [0x87, 0xD8] = .ok (.xchgRm16R16 (.reg .ax) .bx, []) ∧
  decodeBytes [0x8B, 0x46, 0xFE] = .ok (.movR16Rm16 .ax (.mem (.disp8 .bp 0xFE)), []) ∧
  decodeBytes [0x8A, 0x26, 0x00, 0x01] = .ok (.movR8Rm8 .ah (.mem (.direct 0x0100)), []) ∧
  decodeBytes [0x0F, 0x31] = .error (.unmappedOpcode 0x0F)

/-- Exactly the 209 bytes that R79 lists are unmapped, rejected by name; the other 47 decode, whatever follows
(spec/30_encoding.md R78, R79). It rests on decision D1, which closes the set (log entry 22), and on decision D2 for the four
segment-override bytes among the 47 (log entry 13). -/
def Obligations.MappedBytesAreThe47 : Prop :=
  (∀ c : CodeView, unmappedByte c.byte0.toNat = true → decode c = .error (.unmappedOpcode c.byte0)) ∧
  (∀ c : CodeView, unmappedByte c.byte0.toNat = false → ∃ i, decode c = .ok i) ∧
  ((List.range 256).filter fun b => !unmappedByte b).length = 47

/-- The length of a decoded instruction is that of the table of R83, and the encoder writes as many bytes (spec/30_encoding.md
R83, which the spec marks as derived). It rests on conflict C2 for the length 2 of A0 and A2 (log entry 14) and on decision D2
for the length 1 of the segment-override bytes (log entry 13). -/
def Obligations.InstructionLengths : Prop :=
  ∀ (c : CodeView) (i : Instr), decode c = .ok i →
    i.length = lengthTable c.byte0.toNat (modField c.byte1).toNat (rmField c.byte1).toNat ∧ (encode i).length = i.length

/-- What a 3-bit field reads in each of the three files, for every value of the field: the register of that index, the low byte
of register n for fields 0 to 3 and the high byte of register n - 4 for fields 4 to 7, the segment register for fields 0 to 3
and none for 4 to 7 (spec/30_encoding.md R77, R80, R81, spec/10_state.md R10 to R12). That 4 to 7 name none rests on decision
D16 (log entry 17). -/
def Obligations.RegisterNumbering : Prop :=
  ∀ (s : State) (f : BitVec 3),
    s.r16 (Reg16.ofField f) =
      [s.regs.ax, s.regs.cx, s.regs.dx, s.regs.bx, s.regs.sp, s.regs.bp, s.regs.si, s.regs.di].getD f.toNat 0 ∧
    (s.r8 (Reg8.ofField f)).toNat =
      (if f.toNat < 4 then (s.r16 (Reg16.ofField f)).toNat % 256 else (s.r16 (Reg16.ofField (f - 4))).toNat / 256) ∧
    (SReg.ofField f).map s.seg =
      (if f.toNat < 4 then some ([s.regs.es, s.regs.cs, s.regs.ss, s.regs.ds].getD f.toNat 0) else none)

/-- What a ModR/M byte and the displacement after it stand for, in numbers, as an r/m16 and as an r/m8 operand: the register
`rm` of the 16-bit or of the 8-bit file when `mod = 3`; else one and the same memory location, at an offset reduced modulo 2^16
in the override's segment, or in SS for a base with BP, or in DS (spec/30_encoding.md R72 to R74, R80, spec/20_memory.md R45).
The default segments rest on decision D18 (log entry 16) and the override on decision D3 (log entry 13). -/
def Obligations.ModRmOperandForms : Prop :=
  ∀ (s : State) (c : CodeView),
    let mod := c.byte1.toNat / 64
    let rm := c.byte1.toNat % 8
    let usesBp := rm = 2 ∨ rm = 3 ∨ (rm = 6 ∧ mod ≠ 0)
    let d := c.rm16
    let b := c.rm8
    (mod = 3 → d = .reg (Reg16.ofField (BitVec.ofNat 3 rm)) ∧ s.place d = .reg (Reg16.ofField (BitVec.ofNat 3 rm)) ∧
      d.total = 1 ∧ b = .reg (Reg8.ofField (BitVec.ofNat 3 rm)) ∧ s.place b = .reg (Reg8.ofField (BitVec.ofNat 3 rm)) ∧
      b.total = 1) ∧
    (mod ≠ 3 → ∃ seg off : Word,
      s.place d = .mem (addr seg off) ∧ s.place b = .mem (addr seg off) ∧ b.total = d.total ∧
      (s.ovr.enable = true → seg = s.ovr.selector) ∧
      (s.ovr.enable = false → usesBp → seg = s.seg .ss) ∧
      (s.ovr.enable = false → ¬usesBp → seg = s.seg .ds) ∧
      (mod = 0 → rm = 6 → off = c.word2 ∧ d.total = 3) ∧
      (mod = 0 → rm ≠ 6 → off.toNat = rmBase s.regs rm % 65536 ∧ d.total = 1) ∧
      (mod = 1 → (off.toNat : Int) = ((rmBase s.regs rm : Int) + signed8 c.byte2) % 65536 ∧ d.total = 2) ∧
      (mod = 2 → off.toNat = (rmBase s.regs rm + c.word2.toNat) % 65536 ∧ d.total = 3))

/-! ## Registers, memory, ports -/

/-- The linear address of any segment and any offset is 16 times the segment plus the offset, modulo 2^20
(spec/20_memory.md R41). -/
def Obligations.LinearAddress : Prop :=
  ∀ seg off : Word, (addr seg off).toNat = (seg.toNat * 16 + off.toNat) % 2 ^ 20

/-- The 8-bit views are the bytes of AX, CX, DX, BX: a read of a view sees its parent, a write of a view changes that byte of
that parent alone (spec/10_state.md R11). -/
def Obligations.ByteViewsAlias : Prop :=
  (∀ s : State, s.r16 .ax = word (s.r8 .ah) (s.r8 .al) ∧ s.r16 .cx = word (s.r8 .ch) (s.r8 .cl) ∧
    s.r16 .dx = word (s.r8 .dh) (s.r8 .dl) ∧ s.r16 .bx = word (s.r8 .bh) (s.r8 .bl)) ∧
  (∀ (s : State) (r : Reg8) (v : Byte),
    (s.setR8 r v).r8 r = v ∧ (∀ q, q ≠ r → (s.setR8 r v).r8 q = s.r8 q) ∧ Framed [.gpr (parent8 r)] s (s.setR8 r v) ∧
      (s.setR8 r v).ip = s.ip) ∧
  (∀ (s : State) (r : Reg16) (v : Word),
    (s.setR16 r v).r16 r = v ∧ Framed [.gpr r] s (s.setR16 r v) ∧ (s.setR16 r v).ip = s.ip)

/-- Words are little-endian at any address, with the second byte at the next linear address; a write of a word reads back and
touches its two bytes alone (spec/20_memory.md R42 to R44). The wrap at 2^20 is decision D6, and that any address will do is
decision D8 (log entry 15). -/
def Obligations.LittleEndianWords : Prop :=
  ∀ (s : State) (a : Linear) (v : Word),
    (s.wordAt a).toNat = (s.byteAt a).toNat + 256 * (s.byteAt (BitVec.ofNat 20 ((a.toNat + 1) % 2 ^ 20))).toNat ∧
    (s.setWordAt a v).wordAt a = v ∧
    ((s.setWordAt a v).byteAt a).toNat = v.toNat % 256 ∧
    ((s.setWordAt a v).byteAt (a + 1)).toNat = v.toNat / 256 ∧
    (∀ b, b ≠ a → b ≠ a + 1 → (s.setWordAt a v).byteAt b = s.byteAt b) ∧
    (∀ w : Byte, (s.setByteAt a w).byteAt a = w ∧ ∀ b, b ≠ a → (s.setByteAt a w).byteAt b = s.byteAt b)

/-- A 16-bit port access is the ports `p` and `p + 1` mod 2^16, low byte first; a write touches those two ports and records one
event (spec/20_memory.md R48 in its flat-array environment; decisions D7 and D21, log entries 4 and 15). -/
def Obligations.PortWords : Prop :=
  ∀ (s : State) (p v : Word),
    (s.portWordAt p).toNat = (s.portAt p).toNat + 256 * (s.portAt (BitVec.ofNat 16 ((p.toNat + 1) % 2 ^ 16))).toNat ∧
    (s.portWrite16 p v).portWordAt p = v ∧
    (∀ q, q ≠ p → q ≠ p + 1 → (s.portWrite16 p v).portAt q = s.portAt q) ∧
    (s.portWrite16 p v).portEvents = s.portEvents ++ [.write16 p v] ∧
    Framed [.ports] s (s.portWrite16 p v)

/-- Byte arrays in canonical form that read alike are the same data (the model's form of MEM and PORT, log entry 3). -/
def Obligations.CanonicalMemoryIsUnique : Prop :=
  ∀ (size : Nat) (m m' : Memory), m.wf size = true → m'.wf size = true → (∀ a, a < size → m.read a = m'.read a) → m = m'

/-- Where the bytes and words of an instruction are fetched: the offset wraps modulo 2^16 in CS, a word's high byte is at the
next linear address (spec/20_memory.md R46). It rests on decisions D5 and D6 (log entry 15). -/
def Obligations.FetchAddresses : Prop :=
  ∀ (s : State) (k : Nat),
    let a := ((s.seg .cs).toNat * 16 + (s.ip.toNat + k) % 65536) % 2 ^ 20
    s.fetch8 k = s.byteAt (BitVec.ofNat 20 a) ∧
    s.fetch16 k = word (s.byteAt (BitVec.ofNat 20 (a + 1))) (s.byteAt (BitVec.ofNat 20 a))

/-- When the bytes of a well-formed instruction stand at CS:IP, none of them past offset 0xFFFF, the decoder reads that
instruction (spec/20_memory.md R46, spec/30_encoding.md R71). It rests on decision D2 (log entry 13), conflict C2 (log entry
14) and conflict C1 (log entry 22), as `DecodeOfEncode` does. -/
def Obligations.StoredInstructionIsDecoded : Prop :=
  ∀ (s : State) (i : Instr), i.wf = true → bytesAtPc s (encode i) → s.ip.toNat + i.length ≤ 65536 →
    decode s.codeView = .ok i

/-- The segment of a data operand: the override's selector while enabled, whatever the default, else the default segment
register (spec/20_memory.md R45). It rests on decision D3 (log entry 13), and for the direct addresses on decision D20 (log
entry 14). -/
def Obligations.OverrideReplacesDefault : Prop :=
  ∀ (s : State) (d : SReg) (off : Word),
    (s.ovr.enable = true → s.dataSeg d = s.ovr.selector ∧ s.directAddr off = addr s.ovr.selector off) ∧
    (s.ovr.enable = false → s.dataSeg d = s.seg d ∧ s.directAddr off = addr (s.seg .ds) off)

/-! ## Data movement -/

/-- MOV AL, [disp8] loads the byte at the zero-extended displacement in the data segment and keeps AH; MOV AX, [disp16] loads
the word at the displacement; IP advances by 2 and 3 and nothing else changes (spec/40_mov.md R100, R101). The one-byte
displacement is conflict C2, its extension and segment decision D20 (log entry 14); that an override replaces the segment is
decision D3 (log entry 13). -/
def Obligations.MovDirectLoads : Prop :=
  (∀ c : CodeView, c.byte0 = 0xA0 → decode c = .ok (.movAlDisp8 c.byte1)) ∧
  (∀ c : CodeView, c.byte0 = 0xA1 → decode c = .ok (.movAxDisp16 c.word1)) ∧
  (∀ (s : State) (d : Byte), ∃ t, exec (.movAlDisp8 d) s = .next t ∧
    t.r8 .al = s.byteAt (addr (s.dataSeg .ds) (BitVec.ofNat 16 d.toNat)) ∧ t.r8 .ah = s.r8 .ah ∧
    Framed [.gpr .ax] s t ∧ t.ip = s.ip + 2) ∧
  (∀ (s : State) (d : Word), ∃ t, exec (.movAxDisp16 d) s = .next t ∧
    t.r16 .ax = s.wordAt (addr (s.dataSeg .ds) d) ∧ Framed [.gpr .ax] s t ∧ t.ip = s.ip + 3)

/-- MOV [disp8], AL and MOV [disp16], AX store AL, or AL and then AH, in the data segment; every other byte of memory is kept,
IP advances by 2 and 3 and nothing else changes (spec/40_mov.md R102, R103). It rests on conflict C2 and decision D20 (log
entry 14), on decision D3 for the override (log entry 13) and on decision D6 for the byte after linear FFFFF (log entry 15). -/
def Obligations.MovDirectStores : Prop :=
  (∀ c : CodeView, c.byte0 = 0xA2 → decode c = .ok (.movDisp8Al c.byte1)) ∧
  (∀ c : CodeView, c.byte0 = 0xA3 → decode c = .ok (.movDisp16Ax c.word1)) ∧
  (∀ (s : State) (d : Byte), ∃ t, exec (.movDisp8Al d) s = .next t ∧
    (∀ a, t.byteAt a = if a = s.directAddr (BitVec.ofNat 16 d.toNat) then s.r8 .al else s.byteAt a) ∧
    Framed [.mem] s t ∧ t.ip = s.ip + 2) ∧
  (∀ (s : State) (d : Word), ∃ t, exec (.movDisp16Ax d) s = .next t ∧
    (∀ a, t.byteAt a =
      if a = s.directAddr d then s.r8 .al else if a = s.directAddr d + 1 then s.r8 .ah else s.byteAt a) ∧
    Framed [.mem] s t ∧ t.ip = s.ip + 3)

/-- MOV r8, imm8 and MOV r16, imm16 write the immediate to the register of the opcode's low three bits, for every one of them; an
8-bit write keeps every other view; IP advances by 2 and 3 and nothing else changes (spec/40_mov.md R104, R105). -/
def Obligations.MovImmediates : Prop :=
  (∀ c : CodeView, c.byte0.toNat / 8 = 0x16 →
    decode c = .ok (.movR8Imm8 (Reg8.ofField (BitVec.ofNat 3 c.byte0.toNat)) c.byte1)) ∧
  (∀ c : CodeView, c.byte0.toNat / 8 = 0x17 →
    decode c = .ok (.movR16Imm16 (Reg16.ofField (BitVec.ofNat 3 c.byte0.toNat)) c.word1)) ∧
  (∀ (s : State) (r : Reg8) (v : Byte), ∃ t, exec (.movR8Imm8 r v) s = .next t ∧
    t.r8 r = v ∧ (∀ q, q ≠ r → t.r8 q = s.r8 q) ∧ Framed [.gpr (parent8 r)] s t ∧ t.ip = s.ip + 2) ∧
  (∀ (s : State) (r : Reg16) (v : Word), ∃ t, exec (.movR16Imm16 r v) s = .next t ∧
    t.r16 r = v ∧ Framed [.gpr r] s t ∧ t.ip = s.ip + 3)

/-- MOV r8, r/m8 and MOV r16, r/m16 for every operand form: the register named by `reg` gets the register or the memory at the
address taken from the old registers; IP advances past the operand and nothing else changes (spec/40_mov.md R106, R107). The
address is that of `ModRmOperandForms`, with the decisions named there. -/
def Obligations.MovToRegister : Prop :=
  (∀ c : CodeView, c.byte0 = 0x8A → decode c = .ok (.movR8Rm8 (Reg8.ofField (regField c.byte1)) c.rm8)) ∧
  (∀ c : CodeView, c.byte0 = 0x8B → decode c = .ok (.movR16Rm16 (Reg16.ofField (regField c.byte1)) c.rm16)) ∧
  (∀ (s : State) (r : Reg8) (rm : RM Reg8), ∃ t, exec (.movR8Rm8 r rm) s = .next t ∧
    t.r8 r = (match rm with
      | .reg q => s.r8 q
      | .mem ea => s.byteAt (s.eaLinear ea)) ∧
    (∀ q, q ≠ r → t.r8 q = s.r8 q) ∧ Framed [.gpr (parent8 r)] s t ∧ t.ip = s.ip + BitVec.ofNat 16 (1 + rm.total)) ∧
  (∀ (s : State) (r : Reg16) (rm : RM Reg16), ∃ t, exec (.movR16Rm16 r rm) s = .next t ∧
    t.r16 r = (match rm with
      | .reg q => s.r16 q
      | .mem ea => s.wordAt (s.eaLinear ea)) ∧
    Framed [.gpr r] s t ∧ t.ip = s.ip + BitVec.ofNat 16 (1 + rm.total))

/-- MOV r/m16, Sreg for the four segment registers: all 16 bits of the selector, to a register or to two bytes of memory
(spec/40_mov.md R108). The address is that of `ModRmOperandForms`, with the decisions named there; the byte after linear FFFFF
is decision D6 (log entry 15). A field that names no segment register is `SegmentFieldFatal`. -/
def Obligations.MovFromSegment : Prop :=
  (∀ c : CodeView, c.byte0 = 0x8C → decode c = .ok (.movRm16Sreg c.rm16 (regField c.byte1))) ∧
  (∀ (s : State) (f : BitVec 3) (sr : SReg), SReg.ofField f = some sr →
    (∀ q : Reg16, ∃ t, exec (.movRm16Sreg (.reg q) f) s = .next t ∧ t.r16 q = s.seg sr ∧ Framed [.gpr q] s t ∧
      t.ip = s.ip + 2) ∧
    (∀ ea : EA, ∃ t, exec (.movRm16Sreg (.mem ea) f) s = .next t ∧
      (∀ a, t.byteAt a =
        if a = s.eaLinear ea then lo8 (s.seg sr) else if a = s.eaLinear ea + 1 then hi8 (s.seg sr) else s.byteAt a) ∧
      Framed [.mem] s t ∧ t.ip = s.ip + BitVec.ofNat 16 (2 + ea.dispBytes)))

/-- MOV Sreg, r/m16 for the four segment registers, CS among them: the register gets the 16 bits of the operand, IP advances
past it and nothing else changes (spec/40_mov.md R109). That CS may be written is decision D16 (log entry 17); the address is
that of `ModRmOperandForms`. -/
def Obligations.MovToSegment : Prop :=
  (∀ c : CodeView, c.byte0 = 0x8E → decode c = .ok (.movSregRm16 (regField c.byte1) c.rm16)) ∧
  (∀ (s : State) (f : BitVec 3) (sr : SReg) (rm : RM Reg16), SReg.ofField f = some sr →
    ∃ t, exec (.movSregRm16 f rm) s = .next t ∧
      t.seg sr = (match rm with
        | .reg q => s.r16 q
        | .mem ea => s.wordAt (s.eaLinear ea)) ∧
      Framed [.seg sr] s t ∧ t.ip = s.ip + BitVec.ofNat 16 (1 + rm.total))

/-- Under 8C and 8E a `reg` field of 4 to 7 takes the fatal condition: the HALT record is written and nothing else, IP not
advanced (spec/30_encoding.md R81, spec/60_exceptions.md R202, R205). It rests on decisions D16 and D25 (log entry 17); that
the record keeps a ModR/M byte is log entry 8. -/
def Obligations.SegmentFieldFatal : Prop :=
  ∀ (s : State) (f : BitVec 3) (rm : RM Reg16), 4 ≤ f.toNat →
    ∃ m : Byte, regField m = f ∧
      (∃ t, exec (.movRm16Sreg rm f) s = .next t ∧ exec (.movSregRm16 f rm) s = .next t ∧
        t.halt = .halted { kind := .unrecognizedSubencoding, cs := s.seg .cs, ip := s.ip, linear := addr (s.seg .cs) s.ip,
                           opcode := s.curOpcode, modrm := some m, snapshot := s.regs } ∧
        t.regs = s.regs ∧ Framed [.halt] s t)

/-! ## Control transfer -/

/-- JMP seg:off puts the instruction's two words into CS and IP and changes nothing else (spec/41_control_transfer.md R120). -/
def Obligations.JmpFarLoadsCsIp : Prop :=
  (∀ c : CodeView, c.byte0 = 0xEA → decode c = .ok (.jmpFar c.word1 c.word3)) ∧
  (∀ (s : State) (off seg : Word), ∃ t, exec (.jmpFar off seg) s = .next t ∧
    t.seg .cs = seg ∧ t.ip = off ∧ Framed [.seg .cs] s t)

/-- JMP rel16: IP plus 3 plus the signed offset, modulo 2^16, and nothing else changes (spec/41_control_transfer.md R121). -/
def Obligations.JmpNearIsRelative : Prop :=
  (∀ c : CodeView, c.byte0 = 0xE9 → decode c = .ok (.jmpRel16 c.word1)) ∧
  (∀ (s : State) (rel : Word), ∃ t, exec (.jmpRel16 rel) s = .next t ∧
    (t.ip.toNat : Int) = ((s.ip.toNat : Int) + 3 + signed16 rel) % 65536 ∧ Framed [] s t)

/-- JZ, JNZ and JCXZ: IP plus 2, and plus the signed offset when ZF is 1, when ZF is 0, when all 16 bits of CX are 0; nothing else
changes (spec/41_control_transfer.md R122 to R124). -/
def Obligations.ConditionalJumps : Prop :=
  (∀ c : CodeView, c.byte0 = 0x74 → decode c = .ok (.jzRel8 c.byte1)) ∧
  (∀ c : CodeView, c.byte0 = 0x75 → decode c = .ok (.jnzRel8 c.byte1)) ∧
  (∀ c : CodeView, c.byte0 = 0xE3 → decode c = .ok (.jcxzRel8 c.byte1)) ∧
  (∀ (s : State) (rel : Byte), ∃ t, exec (.jzRel8 rel) s = .next t ∧ Framed [] s t ∧
    (t.ip.toNat : Int) = ((s.ip.toNat : Int) + 2 + if flag s.flags .zf then signed8 rel else 0) % 65536) ∧
  (∀ (s : State) (rel : Byte), ∃ t, exec (.jnzRel8 rel) s = .next t ∧ Framed [] s t ∧
    (t.ip.toNat : Int) = ((s.ip.toNat : Int) + 2 + if flag s.flags .zf then 0 else signed8 rel) % 65536) ∧
  (∀ (s : State) (rel : Byte), ∃ t, exec (.jcxzRel8 rel) s = .next t ∧ Framed [] s t ∧
    (t.ip.toNat : Int) = ((s.ip.toNat : Int) + 2 + if (s.r16 .cx).toNat = 0 then signed8 rel else 0) % 65536)

/-! ## Flag control and the ALU -/

/-- CLI clears IF and keeps every other flag (spec/42_flag_control.md R130; that it writes IF is decision D15, log entry 18). -/
def Obligations.CliClearsInterruptFlag : Prop :=
  (∀ c : CodeView, c.byte0 = 0xFA → decode c = .ok .cli) ∧
  (∀ s : State, ∃ t, exec .cli s = .next t ∧ flag t.flags .iF = false ∧ Framed [.flag .iF] s t ∧ t.ip = s.ip + 1)

/-- CLD clears DF and keeps every other flag (spec/42_flag_control.md R131). -/
def Obligations.CldClearsDirectionFlag : Prop :=
  (∀ c : CodeView, c.byte0 = 0xFC → decode c = .ok .cld) ∧
  (∀ s : State, ∃ t, exec .cld s = .next t ∧ flag t.flags .df = false ∧ Framed [.flag .df] s t ∧ t.ip = s.ip + 1)

/-- CMP AL, imm8: the six flags of the subtraction in integers, AL kept (spec/43_alu.md R135, R136). That PF is even parity is
G2, presumed by the spec, and that SF is bit 7 of the 8-bit result is decision D22 (log entry 18). -/
def Obligations.CmpSetsSixFlags : Prop :=
  (∀ c : CodeView, c.byte0 = 0x3C → decode c = .ok (.cmpAlImm8 c.byte1)) ∧
  (∀ (s : State) (b : Byte), ∃ t, exec (.cmpAlImm8 b) s = .next t ∧
    let a := s.r8 .al
    let r := (a.toNat + 256 - b.toNat) % 256
    (flag t.flags .zf = true ↔ a = b) ∧
    (flag t.flags .cf = true ↔ a.toNat < b.toNat) ∧
    (flag t.flags .sf = true ↔ 128 ≤ r) ∧
    (flag t.flags .oF = true ↔ signed8 a - signed8 b < -128 ∨ 127 < signed8 a - signed8 b) ∧
    (flag t.flags .pf = true ↔ ((List.range 8).filter fun k => r.testBit k).length % 2 = 0) ∧
    (flag t.flags .af = true ↔ a.toNat % 16 < b.toNat % 16) ∧
    Framed [.flag .zf, .flag .cf, .flag .sf, .flag .oF, .flag .pf, .flag .af] s t ∧ t.ip = s.ip + 2)

/-- After CMP the flags order AL and imm8: unsigned by CF and ZF, signed by SF and OF (spec/43_alu.md R138 f, which the spec
marks as derived; spec/95_test_vectors.md I4). The signed order holds with SF as bit 7 of the 8-bit result, decision D22 (log
entry 18). -/
def Obligations.CmpOrdersItsOperands : Prop :=
  ∀ (s t : State) (b : Byte), exec (.cmpAlImm8 b) s = .next t →
    (signed8 (s.r8 .al) < signed8 b ↔ flag t.flags .sf ≠ flag t.flags .oF) ∧
    (b.toNat < (s.r8 .al).toNat ↔ flag t.flags .zf = false ∧ flag t.flags .cf = false) ∧
    ¬(flag t.flags .zf = true ∧ flag t.flags .cf = true)

/-- TEST AL, imm8: SF, ZF and PF of the AND, CF and OF cleared, AL kept (spec/43_alu.md R135, R137). That PF is even parity is
G2, presumed by the spec, and the sign is bit 7 of the 8-bit result, decision D22 (log entry 18). AF is undefined in the spec:
nothing is said of it (decision D14, log entry 5). -/
def Obligations.TestSetsFlags : Prop :=
  (∀ c : CodeView, c.byte0 = 0xA8 → decode c = .ok (.testAlImm8 c.byte1)) ∧
  (∀ (s : State) (b : Byte), ∃ t, exec (.testAlImm8 b) s = .next t ∧
    let r := (s.r8 .al).toNat &&& b.toNat
    (flag t.flags .sf = true ↔ 128 ≤ r) ∧ (flag t.flags .zf = true ↔ r = 0) ∧
    (flag t.flags .pf = true ↔ ((List.range 8).filter fun k => r.testBit k).length % 2 = 0) ∧
    flag t.flags .cf = false ∧ flag t.flags .oF = false ∧
    Framed [.flag .sf, .flag .zf, .flag .pf, .flag .cf, .flag .oF, .flag .af, .draws] s t ∧ t.ip = s.ip + 2)

/-! ## Ports -/

/-- IN AL, imm8 and IN AL, DX: one 8-bit port read, AH kept, no port byte changed (spec/44_io.md R145, R147, R153). That EC is
the 8-bit form is conflict C1 (log entry 22), the zero extension of the immediate decision D23 (log entry 14). The value is
what the port holds: the environment may set it between steps (decision D21, log entry 4). -/
def Obligations.InByte : Prop :=
  (∀ c : CodeView, c.byte0 = 0xE4 → decode c = .ok (.inAlImm8 c.byte1)) ∧
  (∀ c : CodeView, c.byte0 = 0xEC → decode c = .ok .inAlDx) ∧
  (∀ (s : State) (n : Byte), ∃ t, exec (.inAlImm8 n) s = .next t ∧
    let p := BitVec.ofNat 16 n.toNat
    t.r8 .al = s.portAt p ∧ t.r8 .ah = s.r8 .ah ∧ (∀ q, t.portAt q = s.portAt q) ∧
    t.portEvents = s.portEvents ++ [.read8 p (s.portAt p)] ∧ Framed [.gpr .ax, .ports] s t ∧ t.ip = s.ip + 2) ∧
  (∀ s : State, ∃ t, exec .inAlDx s = .next t ∧
    t.r8 .al = s.portAt (s.r16 .dx) ∧ t.r8 .ah = s.r8 .ah ∧ (∀ q, t.portAt q = s.portAt q) ∧
    t.portEvents = s.portEvents ++ [.read8 (s.r16 .dx) (s.portAt (s.r16 .dx))] ∧ Framed [.gpr .ax, .ports] s t ∧
    t.ip = s.ip + 1)

/-- IN AX, imm8 and IN AX, DX: one 16-bit port read, AL from the port and AH from the next, no port byte changed (spec/44_io.md
R146, R148, R153). That E5 and ED are these two forms is conflict C1 (log entry 22), the zero extension of the immediate
decision D23 (log entry 14), the layout of the word decision D7 (log entry 15), its value as in `InByte` (decision D21, log
entry 4). -/
def Obligations.InWord : Prop :=
  (∀ c : CodeView, c.byte0 = 0xE5 → decode c = .ok (.inAxImm8 c.byte1)) ∧
  (∀ c : CodeView, c.byte0 = 0xED → decode c = .ok .inAxDx) ∧
  (∀ (s : State) (n : Byte), ∃ t, exec (.inAxImm8 n) s = .next t ∧
    let p := BitVec.ofNat 16 n.toNat
    t.r8 .al = s.portAt p ∧ t.r8 .ah = s.portAt (p + 1) ∧ (∀ q, t.portAt q = s.portAt q) ∧
    t.portEvents = s.portEvents ++ [.read16 p (t.r16 .ax)] ∧ Framed [.gpr .ax, .ports] s t ∧ t.ip = s.ip + 2) ∧
  (∀ s : State, ∃ t, exec .inAxDx s = .next t ∧
    t.r8 .al = s.portAt (s.r16 .dx) ∧ t.r8 .ah = s.portAt (s.r16 .dx + 1) ∧ (∀ q, t.portAt q = s.portAt q) ∧
    t.portEvents = s.portEvents ++ [.read16 (s.r16 .dx) (t.r16 .ax)] ∧ Framed [.gpr .ax, .ports] s t ∧ t.ip = s.ip + 1)

/-- OUT imm8, AL and OUT DX, AL: one 8-bit port write, and nothing else changes (spec/44_io.md R149, R151, R153). The zero
extension of the immediate is decision D23 (log entry 14); that a port holds what was written is the flat array of decision D21
(log entry 4). -/
def Obligations.OutByte : Prop :=
  (∀ c : CodeView, c.byte0 = 0xE6 → decode c = .ok (.outImm8Al c.byte1)) ∧
  (∀ c : CodeView, c.byte0 = 0xEE → decode c = .ok .outDxAl) ∧
  (∀ (s : State) (n : Byte), ∃ t, exec (.outImm8Al n) s = .next t ∧
    let p := BitVec.ofNat 16 n.toNat
    (∀ q, t.portAt q = if q = p then s.r8 .al else s.portAt q) ∧
    t.portEvents = s.portEvents ++ [.write8 p (s.r8 .al)] ∧ Framed [.ports] s t ∧ t.ip = s.ip + 2) ∧
  (∀ s : State, ∃ t, exec .outDxAl s = .next t ∧
    (∀ q, t.portAt q = if q = s.r16 .dx then s.r8 .al else s.portAt q) ∧
    t.portEvents = s.portEvents ++ [.write8 (s.r16 .dx) (s.r8 .al)] ∧ Framed [.ports] s t ∧ t.ip = s.ip + 1)

/-- OUT imm8, AX and OUT DX, AX: one 16-bit port write, AL to the port and AH to the next (spec/44_io.md R150, R152, R153). The
layout is decision D7 (log entry 15), the zero extension of the immediate decision D23 (log entry 14), the flat array decision
D21 (log entry 4). -/
def Obligations.OutWord : Prop :=
  (∀ c : CodeView, c.byte0 = 0xE7 → decode c = .ok (.outImm8Ax c.byte1)) ∧
  (∀ c : CodeView, c.byte0 = 0xEF → decode c = .ok .outDxAx) ∧
  (∀ (s : State) (n : Byte), ∃ t, exec (.outImm8Ax n) s = .next t ∧
    let p := BitVec.ofNat 16 n.toNat
    (∀ q, t.portAt q = if q = p then s.r8 .al else if q = p + 1 then s.r8 .ah else s.portAt q) ∧
    t.portEvents = s.portEvents ++ [.write16 p (s.r16 .ax)] ∧ Framed [.ports] s t ∧ t.ip = s.ip + 2) ∧
  (∀ s : State, ∃ t, exec .outDxAx s = .next t ∧
    (∀ q, t.portAt q = if q = s.r16 .dx then s.r8 .al else if q = s.r16 .dx + 1 then s.r8 .ah else s.portAt q) ∧
    t.portEvents = s.portEvents ++ [.write16 (s.r16 .dx) (s.r16 .ax)] ∧ Framed [.ports] s t ∧ t.ip = s.ip + 1)

/-! ## Exchange, no-op, segment override -/

/-- XCHG r/m16, r16 swaps: two registers, also one with itself, or a register and the word at the one effective address taken
from the old registers (spec/45_xchg_nop.md R160). The address is that of `ModRmOperandForms`, with the decisions named there;
the byte after linear FFFFF is decision D6 (log entry 15). -/
def Obligations.XchgSwaps : Prop :=
  (∀ c : CodeView, c.byte0 = 0x87 → decode c = .ok (.xchgRm16R16 c.rm16 (Reg16.ofField (regField c.byte1)))) ∧
  (∀ (s : State) (r q : Reg16), ∃ t, exec (.xchgRm16R16 (.reg q) r) s = .next t ∧
    t.r16 q = s.r16 r ∧ t.r16 r = s.r16 q ∧ Framed [.gpr q, .gpr r] s t ∧ t.ip = s.ip + 2) ∧
  (∀ (s : State) (r : Reg16) (ea : EA), ∃ t, exec (.xchgRm16R16 (.mem ea) r) s = .next t ∧
    t.r16 r = s.wordAt (s.eaLinear ea) ∧
    (∀ a, t.byteAt a =
      if a = s.eaLinear ea then lo8 (s.r16 r) else if a = s.eaLinear ea + 1 then hi8 (s.r16 r) else s.byteAt a) ∧
    Framed [.gpr r, .mem] s t ∧ t.ip = s.ip + BitVec.ofNat 16 (2 + ea.dispBytes))

/-- NOP advances IP and changes nothing else (spec/45_xchg_nop.md R161). -/
def Obligations.NopOnlyAdvances : Prop :=
  (∀ c : CodeView, c.byte0 = 0x90 → decode c = .ok .nop) ∧
  (∀ s : State, ∃ t, exec .nop s = .next t ∧ Framed [] s t ∧ t.ip = s.ip + 1)

/-- The four segment-override bytes capture the selector of their register and advance IP (spec/46_segment_prefix.md R165 to
R168; the byte values are decision D2, log entry 13). -/
def Obligations.OverrideBytesCapture : Prop :=
  (∀ c : CodeView, (c.byte0 = 0x26 → decode c = .ok .segEs) ∧ (c.byte0 = 0x2E → decode c = .ok .segCs) ∧
    (c.byte0 = 0x36 → decode c = .ok .segSs) ∧ (c.byte0 = 0x3E → decode c = .ok .segDs)) ∧
  (∀ (s : State), ∀ x ∈ [(Instr.segEs, SReg.es), (.segCs, .cs), (.segSs, .ss), (.segDs, .ds)], ∃ t,
    exec x.1 s = .next t ∧ t.ovr = { enable := true, selector := s.seg x.2 } ∧ Framed [.ovr] s t ∧ t.ip = s.ip + 1)

/-! ## Every instruction -/

/-- The IP advance law: IP plus the length for every instruction that is no taken jump and raises nothing; a taken jump has the
IP of its own rule (spec/30_encoding.md R83, R84, spec/41_control_transfer.md R120 to R125). The wrap modulo 2^16 is decision
D5 (log entry 15), the lengths are those of `InstructionLengths` (log entries 13 and 14). -/
def Obligations.IpAdvanceLaw : Prop :=
  ∀ (i : Instr) (s t : State), s.halt = .running → exec i s = .next t → t.halt = .running →
    (isJump i = false → t.ip = s.ip + BitVec.ofNat 16 i.length) ∧
    (∀ rel, i = .jzRel8 rel → flag s.flags .zf = false → t.ip = s.ip + 2) ∧
    (∀ rel, i = .jnzRel8 rel → flag s.flags .zf = true → t.ip = s.ip + 2) ∧
    (∀ rel, i = .jcxzRel8 rel → s.r16 .cx ≠ 0 → t.ip = s.ip + 2) ∧
    (∀ rel, i = .jzRel8 rel → flag s.flags .zf = true → t.ip = s.ip + 2 + sext16 rel) ∧
    (∀ rel, i = .jnzRel8 rel → flag s.flags .zf = false → t.ip = s.ip + 2 + sext16 rel) ∧
    (∀ rel, i = .jcxzRel8 rel → s.r16 .cx = 0 → t.ip = s.ip + 2 + sext16 rel) ∧
    (∀ rel, i = .jmpRel16 rel → t.ip = s.ip + 3 + rel) ∧
    (∀ off seg, i = .jmpFar off seg → t.ip = off ∧ t.seg .cs = seg)

/-- No instruction changes a byte of memory outside the one or two bytes it stores to (spec/20_memory.md R56). Where A2 and A3
store is decision D20 (log entry 14), the byte after linear FFFFF is decision D6 (log entry 15), the other addresses are those
of `ModRmOperandForms`. -/
def Obligations.StoresOnlyWhereTheySay : Prop :=
  ∀ (i : Instr) (s t : State) (a : Linear), exec i s = .next t →
    (∀ l n, storesTo s i = some (l, n) → a ≠ l ∧ (n = 2 → a ≠ l + 1)) → t.byteAt a = s.byteAt a

/-- Every instruction issues the port accesses its rule lists, once each, and only a port write changes a port byte
(spec/20_memory.md R56, spec/44_io.md R145 to R153). The record of accesses is the model's (decision D21, log entry 4); the
pairing of IN is conflict C1 (log entry 22), the zero extension of an immediate port decision D23 (log entry 14), the word at
two ports decision D7 (log entry 15). -/
def Obligations.PortAccessesOnceEach : Prop :=
  ∀ (i : Instr) (s t : State), exec i s = .next t →
    t.portEvents = s.portEvents ++ (portAccess s i).toList ∧
    ((∀ p v, portAccess s i ≠ some (.write8 p v)) → (∀ p v, portAccess s i ≠ some (.write16 p v)) →
      ∀ q, t.portAt q = s.portAt q)

/-- An instruction without a memory operand neither reads nor writes data memory: another memory gives the same outcome
(spec/30_encoding.md R86, spec/95_test_vectors.md I6). -/
def Obligations.RegisterFormsIgnoreMemory : Prop :=
  ∀ (i : Instr) (s : State) (m : Memory), accessesMemory i = false →
    exec i (withMem m s) = onNext (withMem m) (exec i s)

/-! ## The step -/

/-- A step of a running core whose watchdog is silent runs the decoded instruction, with CUR_OPCODE set before it and, unless
it raised a fatal condition, the override ended and the address recorded after it (spec/48_step_driver.md R175, R177). When the
override ends is decision D3 (log entry 13), what the watchdog compares decision D4 (log entry 20). -/
def Obligations.StepRunsDecodedInstruction : Prop :=
  ∀ (s : State) (i : Instr), s.halt = .running → s.lastExec ≠ some s.curAddr → decode s.codeView = .ok i →
    let op := s.byteAt s.curAddr
    ∃ u, exec i { s with curOpcode := op } = .next u ∧
      (∀ r, u.halt = .halted r → step s = .next u) ∧
      (u.halt = .running → step s = .next { u with
        ovr := if op ∈ [0x26, 0x2E, 0x36, 0x3E] then u.ovr else { u.ovr with enable := false }
        lastExec := some s.curAddr })

/-- A running core has a step, and it halts for exactly three reasons, checked in this order: its address is the one last
executed; its primary byte is unmapped; it is 8C or 8E with a `reg` field of 4 to 7 (spec/60_exceptions.md R200, R204, which
the spec marks as derived; spec/20_memory.md R55). It rests on decisions D4 (log entry 20), D1 and D2 (log entries 22 and 13)
and D16 (log entry 17); that a halt is a next state is log entry 6. -/
def Obligations.FatalConditionsInOrder : Prop :=
  ∀ s : State, s.halt = .running → ∃ t, step s = .next t ∧
    let op := s.byteAt s.curAddr
    let again := s.lastExec = some s.curAddr
    let unmapped := unmappedByte op.toNat = true
    let badField := (op = 0x8C ∨ op = 0x8E) ∧ 4 ≤ (s.fetch8 1).toNat / 8 % 8
    ((∃ r, t.halt = .halted r ∧ r.kind = .ipNotAdvanced) ↔ again) ∧
    ((∃ r, t.halt = .halted r ∧ r.kind = .unknownOpcode) ↔ ¬again ∧ unmapped) ∧
    ((∃ r, t.halt = .halted r ∧ r.kind = .unrecognizedSubencoding) ↔ ¬again ∧ ¬unmapped ∧ badField) ∧
    (t.halt = .running ↔ ¬again ∧ ¬unmapped ∧ ¬badField)

/-- A step that raises a fatal condition writes the HALT record and the scratch CUR_OPCODE, and nothing else; the record holds
the address, the opcode and the registers of the step's entry (spec/60_exceptions.md R200, R205). That nothing else is written
is decision D25 (log entry 17); that the record keeps the ModR/M byte fetched, which R205 does not list, is the model's reading
of R200 (log entry 8); that a halt is a next state is log entry 6. -/
def Obligations.FatalStepWritesNothing : Prop :=
  ∀ (s t : State) (r : HaltRecord), step s = .next t → t.halt = .halted r →
    t = { s with halt := .halted r, curOpcode := t.curOpcode } ∧
    r.snapshot = s.regs ∧ r.cs = s.seg .cs ∧ r.ip = s.ip ∧ r.linear = s.curAddr ∧ r.opcode = t.curOpcode ∧
    (r.kind = .ipNotAdvanced → t.curOpcode = s.curOpcode) ∧ (r.kind ≠ .ipNotAdvanced → t.curOpcode = s.byteAt s.curAddr) ∧
    (r.kind = .unrecognizedSubencoding → r.modrm = some (s.fetch8 1))

/-- An unmapped primary byte halts the core: CUR_OPCODE holds the byte, everything else is as at the step's entry
(spec/60_exceptions.md R201, R205). Which bytes are unmapped rests on decisions D1 and D2 (log entries 22 and 13), what the
watchdog compares on decision D4 (log entry 20); that the record's ModR/M field is none is log entry 8. -/
def Obligations.UnmappedByteHalts : Prop :=
  ∀ s : State, s.halt = .running → s.lastExec ≠ some s.curAddr → unmappedByte (s.byteAt s.curAddr).toNat = true →
    step s = .next { s with
      curOpcode := s.byteAt s.curAddr
      halt := .halted { kind := .unknownOpcode, cs := s.seg .cs, ip := s.ip, linear := addr (s.seg .cs) s.ip,
                        opcode := s.byteAt s.curAddr, modrm := none, snapshot := s.regs } }

/-- A halted core has no step, processes no message and accepts no reset; a change of memory or of a port by the environment
keeps the record (spec/48_step_driver.md R179, spec/60_exceptions.md R206). It rests on decision D19 (log entry 24); that the
model answers a fault there is log entry 6. -/
def Obligations.HaltedCoreIsStuck : Prop :=
  ∀ (P : Config.Params) (s : State) (r : HaltRecord), s.halt = .halted r →
    step s = .fault (.halted r) ∧ resetEvent s = .fault (.halted r) ∧ (∀ m, deliver P m s = .fault (.halted r)) ∧
    (∀ e t, event P e s = .next t → t.halt = .halted r)

/-- A completed step records its address and leaves OVR as its override byte set it, or ended: an override lasts for one
instruction (spec/48_step_driver.md R177, spec/46_segment_prefix.md R169; decisions D2 and D3, log entry 13). -/
def Obligations.OverrideLastsOneInstruction : Prop :=
  ∀ s t : State, step s = .next t → t.halt = .running →
    let op := s.byteAt s.curAddr
    t.lastExec = some s.curAddr ∧ t.curOpcode = op ∧
    (op = 0x26 → t.ovr = { enable := true, selector := s.seg .es }) ∧
    (op = 0x2E → t.ovr = { enable := true, selector := s.seg .cs }) ∧
    (op = 0x36 → t.ovr = { enable := true, selector := s.seg .ss }) ∧
    (op = 0x3E → t.ovr = { enable := true, selector := s.seg .ds }) ∧
    (op ∉ [0x26, 0x2E, 0x36, 0x3E] → t.ovr = { enable := false, selector := s.ovr.selector })

/-- Only a jump can land on its own linear address: a step that completes without a jump has moved, so that the watchdog cannot
trip at the next step (spec/48_step_driver.md R176 b). It rests on decision D4 (log entry 20). -/
def Obligations.WatchdogTripsOnlyAfterJump : Prop :=
  ∀ s t u : State, ∀ r : HaltRecord, step s = .next t → t.halt = .running → step t = .next u → u.halt = .halted r →
    r.kind = .ipNotAdvanced → ∃ i, decode s.codeView = .ok i ∧ isJump i = true ∧ t.curAddr = s.curAddr

/-- A jump to itself completes, and the step after it halts with IP_NOT_ADVANCED, CUR_OPCODE not read again: the five jumps,
each in the form that lands on its own address, a conditional one with its condition true, the far one by any CS:IP with the
same linear address (spec/70_reset_and_hazards.md R223, spec/41_control_transfer.md R125 e, spec/60_exceptions.md R203,
spec/95_test_vectors.md V2.4.9). It rests on decision D4 (log entry 20). -/
def Obligations.JumpToSelfHalts : Prop :=
  ∀ s : State, s.halt = .running → s.lastExec ≠ some s.curAddr →
    (decode s.codeView = .ok (.jmpRel16 0xFFFD) ∨
      (decode s.codeView = .ok (.jzRel8 0xFE) ∧ flag s.flags .zf = true) ∨
      (decode s.codeView = .ok (.jnzRel8 0xFE) ∧ flag s.flags .zf = false) ∨
      (decode s.codeView = .ok (.jcxzRel8 0xFE) ∧ s.r16 .cx = 0) ∨
      (∃ off seg : Word, decode s.codeView = .ok (.jmpFar off seg) ∧ addr seg off = s.curAddr)) →
    ∃ t u r, step s = .next t ∧ t.halt = .running ∧ t.curAddr = s.curAddr ∧
      step t = .next u ∧ u = { t with halt := .halted r } ∧ r.kind = .ipNotAdvanced ∧ r.linear = s.curAddr ∧
      r.opcode = s.byteAt s.curAddr

/-- Every step keeps the invariant: both byte arrays canonical and within their sizes, and a HALT record that agrees with the
state it stands in (spec/10_state.md R21, R22, spec/60_exceptions.md R205, R214). The canonical form is the model's (log entry
3), and so is the ModR/M field of the record (log entry 8). -/
def Obligations.StepKeepsInvariant : Prop :=
  ∀ s t : State, inv s = true → step s = .next t → inv t = true

/-- Every event of the environment keeps the invariant: reset, messages, changes of memory and ports (spec/48_step_driver.md
R178, spec/20_memory.md R52). The canonical form in the invariant is the model's (log entry 3), and so is the ModR/M field of
the record (log entry 8); when the environment acts is decision D21 (log entries 4 and 7). -/
def Obligations.EnvironmentKeepsInvariant : Prop :=
  ∀ (P : Config.Params) (e : Event) (s t : State), e ≠ .step → inv s = true → event P e s = .next t → inv t = true

/-- No step switches the mode, changes PE or emits a message, none sets IF or DF, none changes TF
(spec/49_mode_switch.md R193, R196, spec/42_flag_control.md, spec/10_state.md R15 to R17). -/
def Obligations.StepNeverSwitchesMode : Prop :=
  ∀ s t : State, step s = .next t →
    t.mode = s.mode ∧ t.cr0Pe = s.cr0Pe ∧ t.outMsgs = s.outMsgs ∧ flag t.flags .tf = flag s.flags .tf ∧
    (flag t.flags .iF = true → flag s.flags .iF = true) ∧ (flag t.flags .df = true → flag s.flags .df = true)

/-- The mode changes nothing: a step does the same in every mode and with either value of PE (spec/49_mode_switch.md R196,
spec/60_exceptions.md R208; decision D9, log entry 19). -/
def Obligations.ModeChangesNothing : Prop :=
  ∀ (s : State) (m : Byte) (pe : Bool), step (withMode m pe s) = onNext (withMode m pe) (step s)

/-! ## Construction, reset, messages -/

/-- What `reset` does to a running core, and that it writes nothing else (spec/70_reset_and_hazards.md R221). Clearing OVR and
LAST_EXEC and keeping MODE is decision D19 (log entry 24). -/
def Obligations.ResetEntersResetVector : Prop :=
  ∀ s : State, s.halt = .running → ∃ t, resetEvent s = .next t ∧
    t.seg .cs = 0xF000 ∧ t.ip = 0xFFF0 ∧ t.curAddr = 0xFFFF0 ∧ t.ovr = { s.ovr with enable := false } ∧ t.lastExec = none ∧
    t.outMsgs = s.outMsgs ++ [.globalLockBiosMemRegion] ∧
    (∀ r, t.r16 r = s.r16 r) ∧ (∀ r, r ≠ .cs → t.seg r = s.seg r) ∧ t.flags = s.flags ∧ t.mode = s.mode ∧
    t.cr0Pe = s.cr0Pe ∧ t.halt = .running ∧ t.curOpcode = s.curOpcode ∧ t.mem = s.mem ∧ t.ports = s.ports ∧
    t.portEvents = s.portEvents ∧ t.drawCount = s.drawCount

/-- Construction and one reset leave the values of the spec for every INIT and every contents of memory and ports;
`State.reset` is one such state (spec/10_state.md R24, spec/70_reset_and_hazards.md R220, R221). Decision D19 gives MODE, PE,
OVR and LAST_EXEC (log entry 24). That INIT, memory and ports are zero in `State.reset`, and its mode bytes, are the model's
choice (log entries 1, 2, 3, 4). -/
def Obligations.ConstructThenReset : Prop :=
  (∀ (P : Config.Params) (init : RegFile) (mem ports : Memory),
    let c := State.construct P init mem ports
    c.regs = init ∧ c.mem = mem ∧ c.ports = ports ∧ c.outMsgs = [] ∧ c.halt = .running ∧
    ∃ t, resetEvent c = .next t ∧
      (∀ r, t.r16 r = init.get16 r) ∧ (∀ r, r ≠ .cs → t.seg r = init.getSeg r) ∧ t.seg .cs = 0xF000 ∧ t.ip = 0xFFF0 ∧
      t.flags = init.flags ∧ t.mode = P.modeReal ∧ t.cr0Pe = false ∧ t.ovr.enable = false ∧ t.lastExec = none ∧
      t.halt = .running ∧ t.outMsgs = [.globalLockBiosMemRegion] ∧ t.mem = mem ∧ t.ports = ports) ∧
  resetEvent (State.construct Config.Params.vectors RegFile.zero [] []) = .next State.reset

/-- The state after reset meets the invariant, and so does every constructed state over canonical byte arrays (spec/10_state.md
R24, spec/70_reset_and_hazards.md R220, for HALT after construction). The canonical form of both arrays is the model's (log
entry 3), and the values of `State.reset` are those of log entries 1 to 4. -/
def Obligations.ResetMeetsInvariant : Prop :=
  inv State.reset = true ∧
  ∀ (P : Config.Params) (init : RegFile) (mem ports : Memory), mem.wf Config.memSize = true →
    ports.wf Config.portSize = true → inv (State.construct P init mem ports) = true

/-- The mode-switch message: any target byte is stored and announced; PE follows the two known modes and is kept for any other;
nothing else changes (spec/49_mode_switch.md R191 to R193). It rests on decisions D10 and D11 (log entry 18); that the two mode
bytes differ is decision D13 (log entry 2). -/
def Obligations.ModeSwitchMessage : Prop :=
  ∀ (P : Config.Params) (s : State) (b : Byte), P.wf = true → s.halt = .running →
    ∃ pe, deliver P { name := .requestCpuModeswitch, payload := [b] } s =
        .next { s with mode := b, cr0Pe := pe, outMsgs := s.outMsgs ++ [.globalCpuModeswitch b] } ∧
      (b = P.modeProtected → pe = true) ∧ (b = P.modeReal → pe = false) ∧
      (b ≠ P.modeProtected → b ≠ P.modeReal → pe = s.cr0Pe)

/-- Any other message is ignored (spec/49_mode_switch.md R195; decision D11, log entry 18), and a request whose payload is not
one byte is refused by name, which is the model's choice (log entry 21). -/
def Obligations.OtherMessagesIgnored : Prop :=
  ∀ (P : Config.Params) (s : State) (m : BusMsg), s.halt = .running →
    (m.name ≠ .requestCpuModeswitch → deliver P m s = .next s) ∧
    (m.name = .requestCpuModeswitch → m.payload.length ≠ 1 → deliver P m s = .refused .malformedModeSwitchRequest)

/-- A change of one byte of memory or of one port by the environment changes that byte and nothing else (spec/48_step_driver.md
R178, spec/20_memory.md R52). It rests on decision D21 (log entries 4 and 7). -/
def Obligations.EnvironmentWritesOneByte : Prop :=
  ∀ (P : Config.Params) (s : State) (v : Byte),
    (∀ a : Linear, ∃ t, event P (.writeMem a v) s = .next t ∧ (∀ b, t.byteAt b = if b = a then v else s.byteAt b) ∧
      t.regs = s.regs ∧ Framed [.mem] s t) ∧
    (∀ p : Word, ∃ t, event P (.writePort p v) s = .next t ∧ (∀ q, t.portAt q = if q = p then v else s.portAt q) ∧
      t.portEvents = s.portEvents ∧ t.regs = s.regs ∧ Framed [.ports] s t)
end

