-- ==== Sys2Proof/Laws/Bits.lean ====
section
/-! SUPPORT. Byte order and address arithmetic. -/

namespace Sys2Proof

theorem lo8_toNat (w : Word) : (lo8 w).toNat = w.toNat % 256 := by
  simp [lo8, BitVec.extractLsb'_toNat]

theorem hi8_toNat (w : Word) : (hi8 w).toNat = w.toNat / 256 := by
  have := w.isLt
  simp [hi8, BitVec.extractLsb'_toNat, Nat.shiftRight_eq_div_pow]
  omega

theorem word_toNat (h l : Byte) : (word h l).toNat = 256 * h.toNat + l.toNat := by
  have hl := l.isLt
  have e : (word h l).toNat = (h ++ l : BitVec (8 + 8)).toNat := rfl
  rw [e, BitVec.toNat_append, ← Nat.shiftLeft_add_eq_or_of_lt hl, Nat.shiftLeft_eq]
  omega

@[simp] theorem lo8_word (h l : Byte) : lo8 (word h l) = l := by
  apply BitVec.eq_of_toNat_eq
  have := l.isLt
  rw [lo8_toNat, word_toNat]
  omega

@[simp] theorem hi8_word (h l : Byte) : hi8 (word h l) = h := by
  apply BitVec.eq_of_toNat_eq
  have := l.isLt
  rw [hi8_toNat, word_toNat]
  omega

@[simp] theorem word_hi8_lo8 (w : Word) : word (hi8 w) (lo8 w) = w := by
  apply BitVec.eq_of_toNat_eq
  rw [word_toNat, hi8_toNat, lo8_toNat]
  omega

theorem addr_toNat (seg off : Word) : (addr seg off).toNat = (seg.toNat * 16 + off.toNat) % 2 ^ 20 := by
  simp [addr]

theorem zext16_toNat (b : Byte) : (zext16 b).toNat = b.toNat := by
  have := b.isLt
  simp [zext16]
  omega

theorem sext16_toNat (b : Byte) : (sext16 b).toNat = if b.toNat < 0x80 then b.toNat else b.toNat + 0xFF00 := by
  revert b
  decide

/-- A word and its successor are different addresses. -/
theorem linear_succ_ne (a : Linear) : a + 1 ≠ a := by
  intro h
  have := congrArg BitVec.toNat h
  simp [BitVec.toNat_add] at this
  have := a.isLt
  omega

theorem linear_succ_ne_toNat (a : Linear) : (a + 1).toNat ≠ a.toNat :=
  fun h => linear_succ_ne a (BitVec.eq_of_toNat_eq h)

theorem port_succ_ne_toNat (p : Word) : (p + 1).toNat ≠ p.toNat := by
  intro h
  simp [BitVec.toNat_add] at h
  have := p.isLt
  omega

end Sys2Proof
end

