-- ==== Sys2Proof/Laws/Decode.lean ====
section
/-! SUPPORT. Register numbers, the ModR/M byte, and what the decoder can answer. -/

namespace Sys2Proof

@[simp] theorem Reg16.ofField_field (r : Reg16) : Reg16.ofField r.field = r := by cases r <;> rfl

@[simp] theorem Reg8.ofField_field (r : Reg8) : Reg8.ofField r.field = r := by cases r <;> rfl

@[simp] theorem Base.ofField_field (b : Base) : Base.ofField b.field = b := by cases b <;> rfl

@[simp] theorem Reg16.field_ofField (f : BitVec 3) : (Reg16.ofField f).field = f := by revert f; decide

@[simp] theorem Reg8.field_ofField (f : BitVec 3) : (Reg8.ofField f).field = f := by revert f; decide

@[simp] theorem Base.field_ofField (f : BitVec 3) : (Base.ofField f).field = f := by revert f; decide

theorem Base.field_eq_six (b : Base) : b.field = 6 ↔ b = .bp := by cases b <;> decide

theorem SReg.ofField_eq_none (f : BitVec 3) : SReg.ofField f = none ↔ 4 ≤ f.toNat := by revert f; decide

/-- The three fields of a ModR/M byte written from its fields (spec/30_encoding.md R72). -/
@[simp] theorem modField_append (mod : BitVec 2) (reg rm : BitVec 3) : modField (mod ++ reg ++ rm) = mod := by
  revert mod reg rm; decide

@[simp] theorem regField_append (mod : BitVec 2) (reg rm : BitVec 3) : regField (mod ++ reg ++ rm) = reg := by
  revert mod reg rm; decide

@[simp] theorem rmField_append (mod : BitVec 2) (reg rm : BitVec 3) : rmField (mod ++ reg ++ rm) = rm := by
  revert mod reg rm; decide

@[simp] theorem rmField_opcode (op : BitVec 5) (r : BitVec 3) : rmField (op ++ r) = r := by
  revert op r; decide

/-- A ModR/M byte is its three fields. -/
theorem modrm_fields (m : Byte) : modField m ++ regField m ++ rmField m = m := by
  revert m; decide

theorem opcode_fields (m : Byte) : (m.extractLsb' 3 5 ++ rmField m : BitVec 8) = m := by
  revert m; decide

/-- Parsing the ModR/M byte of a well-formed operand gives the operand back, whatever `reg` field it carries. -/
theorem RM.parse_modrmByte {ρ : Type} (regOf : BitVec 3 → ρ) (fieldOf : ρ → BitVec 3) (hr : ∀ r, regOf (fieldOf r) = r)
    (rm : RM ρ) (hwf : rm.wf = true) (reg : BitVec 3) (d8 : Byte) (d16 : Word)
    (h8 : ∀ b d, rm = .mem (.disp8 b d) → d8 = d) (h16 : ∀ b d, rm = .mem (.disp16 b d) → d16 = d)
    (hd : ∀ d, rm = .mem (.direct d) → d16 = d) :
    RM.parse regOf (rm.modrmByte fieldOf reg) d8 d16 = rm := by
  rcases rm with r | (d | b | ⟨b, d⟩ | ⟨b, d⟩)
  · simp [RM.parse, RM.modrmByte, hr]
  · simp [RM.parse, RM.modrmByte, hd d rfl]
  · have hb : b.field ≠ 6 := by
      rw [Ne, Base.field_eq_six]
      simpa [RM.wf, EA.wf] using hwf
    simpa [RM.parse, RM.modrmByte] using hb
  · simp [RM.parse, RM.modrmByte, h8 b d rfl]
  · simp [RM.parse, RM.modrmByte, h16 b d rfl]

theorem regField_modrmByte {ρ : Type} (fieldOf : ρ → BitVec 3) (reg : BitVec 3) (rm : RM ρ) :
    regField (rm.modrmByte fieldOf reg) = reg := by
  rcases rm with r | (d | b | ⟨b, d⟩ | ⟨b, d⟩) <;> simp [RM.modrmByte]

/-- Every parsed operand is well-formed. -/
theorem RM.parse_wf {ρ : Type} (regOf : BitVec 3 → ρ) (m d8 : Byte) (d16 : Word) : (RM.parse regOf m d8 d16).wf = true := by
  unfold RM.parse
  split
  · rfl
  split
  · split
    · rfl
    · next h =>
      have : Base.ofField (rmField m) ≠ .bp := by
        rw [Ne, ← Base.field_eq_six, Base.field_ofField]
        exact h
      simpa [RM.wf, EA.wf] using this
  split <;> rfl

/-- The ModR/M byte of a parsed operand is the byte it was parsed from. -/
theorem RM.modrmByte_parse {ρ : Type} (regOf : BitVec 3 → ρ) (fieldOf : ρ → BitVec 3) (hr : ∀ f, fieldOf (regOf f) = f)
    (m d8 : Byte) (d16 : Word) : (RM.parse regOf m d8 d16).modrmByte fieldOf (regField m) = m := by
  have key : ∀ k : BitVec 2, modField m = k → (k ++ regField m ++ rmField m : BitVec 8) = m := by
    intro k hk
    rw [← hk]
    exact modrm_fields m
  unfold RM.parse
  split
  · next h => simpa [RM.modrmByte, hr] using key 3 h
  split
  · next h =>
    split
    · next h6 => simpa [RM.modrmByte, h6] using key 0 h
    · simpa [RM.modrmByte] using key 0 h
  split
  · next h => simpa [RM.modrmByte] using key 1 h
  · next h3 h0 h1 =>
    have h2 : modField m = 2 := by
      generalize modField m = k at h3 h0 h1 ⊢
      clear key hr
      revert k
      decide
    simpa [RM.modrmByte] using key 2 h2

/-- Two rows whose patterns differ in a bit that both masks keep share no primary byte. -/
theorem not_both_map {x m p n q : Byte} (h : (p ^^^ q) &&& m &&& n ≠ 0) : ¬(x &&& m = p ∧ x &&& n = q) := by
  rintro ⟨rfl, rfl⟩
  apply h
  ext i hi
  simp
  cases x[i] <;> cases m[i] <;> cases n[i] <;> simp

/-- No two rows of the opcode map claim one byte. -/
theorem opTable_disjoint :
    (opTable.map fun r => (r.mask, r.pattern)).Pairwise (fun a b => (a.2 ^^^ b.2) &&& a.1 &&& b.1 ≠ 0) := by
  decide

/-- What the decoder can answer: a row of the map that maps the primary byte gives the instruction. -/
theorem decode_ok {c : CodeView} {i : Instr} (h : decode c = .ok i) :
    ∃ row ∈ opTable, row.maps c.byte0 = true ∧ i = row.operands c := by
  unfold decode at h
  split at h
  · next row hrow =>
    cases h
    exact ⟨row, List.mem_of_find?_eq_some hrow, by simpa using List.find?_some hrow, rfl⟩
  · cases h

/-- The only error on a view is the unmapped primary byte. -/
theorem decode_error {c : CodeView} {e : DecodeError} (h : decode c = .error e) :
    e = .unmappedOpcode c.byte0 ∧ ∀ row ∈ opTable, row.maps c.byte0 = false := by
  unfold decode at h
  split at h
  · cases h
  · next hnone =>
    cases h
    exact ⟨rfl, by simpa using hnone⟩

/-- Total length of the displacement fields. -/
theorem RM.dispPieces_length {ρ : Type} (rm : RM ρ) : 1 + (rm.dispPieces.flatMap Piece.bytes).length = rm.total := by
  rcases rm with r | (d | b | ⟨b, d⟩ | ⟨b, d⟩) <;> rfl

end Sys2Proof
end

