-- ==== Sys2Proof/Laws/Memory.lean ====
section
/-! SUPPORT. Byte arrays: what a write does to a read, and that the canonical form is kept and is canonical. -/

namespace Sys2Proof.Machine

theorem Memory.read_filter_ne (m : Memory) (a : Nat) : Memory.read (m.filter (fun c => c.1 != a)) a = Memory.unlisted := by
  induction m with
  | nil => rfl
  | cons c m ih =>
    rcases c with ⟨k, v⟩
    by_cases h : k = a
    · simp [h, ih]
    · have h' : a ≠ k := fun e => h e.symm
      simp [h, h', Memory.read, ih]

theorem Memory.read_filter_other (m : Memory) {a b : Nat} (h : b ≠ a) :
    Memory.read (m.filter (fun c => c.1 != a)) b = Memory.read m b := by
  induction m with
  | nil => rfl
  | cons c m ih =>
    rcases c with ⟨k, v⟩
    by_cases hk : k = a
    · have : b ≠ k := fun e => h (e.trans hk)
      simp [hk, Memory.read, ih, h]
    · by_cases hb : b = k <;> simp [hk, hb, Memory.read, ih]

theorem Memory.read_insert (m : Memory) (a b : Nat) (v : Byte) (h : ∀ c ∈ m, c.1 ≠ a) :
    Memory.read (Memory.insert a v m) b = if b = a then v else Memory.read m b := by
  induction m with
  | nil => simp [Memory.insert, Memory.read]
  | cons c m ih =>
    rcases c with ⟨k, w⟩
    have hk : k ≠ a := h (k, w) (by simp)
    have ih' := ih (fun c hc => h c (by simp [hc]))
    simp only [Memory.insert]
    split
    · simp [Memory.read]
    · by_cases hb : b = k
      · simp [Memory.read, hb, hk]
      · simp [Memory.read, hb, ih']

/-- The one law of a write: the byte written reads back, every other address reads as before. It needs no invariant. -/
theorem Memory.read_write (m : Memory) (a b : Nat) (v : Byte) :
    (m.write a v).read b = if b = a then v else m.read b := by
  unfold Memory.write
  have hne : ∀ c ∈ m.filter (fun c => c.1 != a), c.1 ≠ a := by
    intro c hc
    simpa using (List.mem_filter.mp hc).2
  by_cases hv : v = Memory.unlisted
  · by_cases hb : b = a
    · simp [hv, hb, Memory.read_filter_ne]
    · simp [hv, hb, Memory.read_filter_other m hb]
  · by_cases hb : b = a
    · simp [hv, hb, Memory.read_insert _ _ _ _ hne]
    · simp [hv, hb, Memory.read_insert _ _ _ _ hne, Memory.read_filter_other m hb]

@[simp] theorem Memory.read_write_same (m : Memory) (a : Nat) (v : Byte) : (m.write a v).read a = v := by
  simp [Memory.read_write]

theorem Memory.read_write_other (m : Memory) {a b : Nat} (v : Byte) (h : b ≠ a) : (m.write a v).read b = m.read b := by
  simp [Memory.read_write, h]

theorem Memory.wfFrom_cons {size lo k : Nat} {v : Byte} {m : Memory} :
    Memory.wfFrom size lo ((k, v) :: m) = true ↔
      lo ≤ k ∧ k < size ∧ v ≠ Memory.unlisted ∧ Memory.wfFrom size (k + 1) m = true := by
  simp [Memory.wfFrom, and_assoc]

theorem Memory.wfFrom_mono {size : Nat} {m : Memory} {lo lo' : Nat} (hle : lo' ≤ lo) (h : Memory.wfFrom size lo m = true) :
    Memory.wfFrom size lo' m = true := by
  cases m with
  | nil => rfl
  | cons c m =>
    rcases c with ⟨k, v⟩
    rw [Memory.wfFrom_cons] at *
    exact ⟨by omega, h.2⟩

theorem Memory.wfFrom_filter {size : Nat} (p : Host.Cell → Bool) (m : Memory) {lo : Nat}
    (h : Memory.wfFrom size lo m = true) : Memory.wfFrom size lo (m.filter p) = true := by
  induction m generalizing lo with
  | nil => rfl
  | cons c m ih =>
    rcases c with ⟨k, v⟩
    rw [Memory.wfFrom_cons] at h
    obtain ⟨h1, h2, h3, h4⟩ := h
    by_cases hp : p (k, v)
    · simpa [hp, Memory.wfFrom_cons] using ⟨h1, h2, h3, ih h4⟩
    · simpa [hp] using Memory.wfFrom_mono (by omega) (ih h4)

theorem Memory.wfFrom_insert {size a : Nat} {v : Byte} (m : Memory) {lo : Nat} (hv : v ≠ Memory.unlisted) (ha : a < size)
    (hlo : lo ≤ a) (hne : ∀ c ∈ m, c.1 ≠ a) (h : Memory.wfFrom size lo m = true) :
    Memory.wfFrom size lo (Memory.insert a v m) = true := by
  induction m generalizing lo with
  | nil => simp [Memory.insert, Memory.wfFrom, hv, ha, hlo]
  | cons c m ih =>
    rcases c with ⟨k, w⟩
    have hk : k ≠ a := hne (k, w) (by simp)
    rw [Memory.wfFrom_cons] at h
    obtain ⟨h1, h2, h3, h4⟩ := h
    simp only [Memory.insert]
    split
    · rw [Memory.wfFrom_cons, Memory.wfFrom_cons]
      exact ⟨hlo, ha, hv, by omega, h2, h3, h4⟩
    · rw [Memory.wfFrom_cons]
      exact ⟨h1, h2, h3, ih (by omega) (fun c hc => hne c (by simp [hc])) h4⟩

/-- Every write keeps the canonical form. -/
theorem Memory.wf_write {size : Nat} (m : Memory) {a : Nat} (v : Byte) (ha : a < size) (h : m.wf size = true) :
    (m.write a v).wf size = true := by
  have hf := Memory.wfFrom_filter (fun c => c.1 != a) m (lo := 0) h
  simp only [Memory.wf, Memory.write]
  split
  · exact hf
  · next hv =>
    refine Memory.wfFrom_insert _ hv ha (Nat.zero_le _) ?_ hf
    intro c hc
    simpa using (List.mem_filter.mp hc).2

/-- Nothing is listed below the first address a canonical list may have. -/
theorem Memory.read_below {size : Nat} (m : Memory) {lo b : Nat} (h : Memory.wfFrom size lo m = true) (hb : b < lo) :
    m.read b = Memory.unlisted := by
  induction m generalizing lo with
  | nil => rfl
  | cons c m ih =>
    rcases c with ⟨k, v⟩
    rw [Memory.wfFrom_cons] at h
    have hk : b ≠ k := by omega
    simp [Memory.read, hk, ih h.2.2.2 (by omega)]

end Sys2Proof.Machine
end

