-- ==== Sys2Proof/Laws/State.lean ====
section
/-! SUPPORT. What each update of the state does to each of its fields: one lemma per field per update. -/

namespace Sys2Proof.Machine

variable (s : State)

@[simp] theorem State.setR16_regs (r : Reg16) (v : Word) : (s.setR16 r v).regs = s.regs.set16 r v := rfl
@[simp] theorem State.setR16_cr0Pe (r : Reg16) (v : Word) : (s.setR16 r v).cr0Pe = s.cr0Pe := rfl
@[simp] theorem State.setR16_mode (r : Reg16) (v : Word) : (s.setR16 r v).mode = s.mode := rfl
@[simp] theorem State.setR16_ovr (r : Reg16) (v : Word) : (s.setR16 r v).ovr = s.ovr := rfl
@[simp] theorem State.setR16_curOpcode (r : Reg16) (v : Word) : (s.setR16 r v).curOpcode = s.curOpcode := rfl
@[simp] theorem State.setR16_lastExec (r : Reg16) (v : Word) : (s.setR16 r v).lastExec = s.lastExec := rfl
@[simp] theorem State.setR16_halt (r : Reg16) (v : Word) : (s.setR16 r v).halt = s.halt := rfl
@[simp] theorem State.setR16_mem (r : Reg16) (v : Word) : (s.setR16 r v).mem = s.mem := rfl
@[simp] theorem State.setR16_ports (r : Reg16) (v : Word) : (s.setR16 r v).ports = s.ports := rfl
@[simp] theorem State.setR16_outMsgs (r : Reg16) (v : Word) : (s.setR16 r v).outMsgs = s.outMsgs := rfl
@[simp] theorem State.setR16_portEvents (r : Reg16) (v : Word) : (s.setR16 r v).portEvents = s.portEvents := rfl
@[simp] theorem State.setR16_drawCount (r : Reg16) (v : Word) : (s.setR16 r v).drawCount = s.drawCount := rfl

@[simp] theorem State.setR8_regs (r : Reg8) (v : Byte) : (s.setR8 r v).regs = s.regs.set8 r v := rfl
@[simp] theorem State.setR8_cr0Pe (r : Reg8) (v : Byte) : (s.setR8 r v).cr0Pe = s.cr0Pe := rfl
@[simp] theorem State.setR8_mode (r : Reg8) (v : Byte) : (s.setR8 r v).mode = s.mode := rfl
@[simp] theorem State.setR8_ovr (r : Reg8) (v : Byte) : (s.setR8 r v).ovr = s.ovr := rfl
@[simp] theorem State.setR8_curOpcode (r : Reg8) (v : Byte) : (s.setR8 r v).curOpcode = s.curOpcode := rfl
@[simp] theorem State.setR8_lastExec (r : Reg8) (v : Byte) : (s.setR8 r v).lastExec = s.lastExec := rfl
@[simp] theorem State.setR8_halt (r : Reg8) (v : Byte) : (s.setR8 r v).halt = s.halt := rfl
@[simp] theorem State.setR8_mem (r : Reg8) (v : Byte) : (s.setR8 r v).mem = s.mem := rfl
@[simp] theorem State.setR8_ports (r : Reg8) (v : Byte) : (s.setR8 r v).ports = s.ports := rfl
@[simp] theorem State.setR8_outMsgs (r : Reg8) (v : Byte) : (s.setR8 r v).outMsgs = s.outMsgs := rfl
@[simp] theorem State.setR8_portEvents (r : Reg8) (v : Byte) : (s.setR8 r v).portEvents = s.portEvents := rfl
@[simp] theorem State.setR8_drawCount (r : Reg8) (v : Byte) : (s.setR8 r v).drawCount = s.drawCount := rfl

@[simp] theorem State.setSeg_regs (r : SReg) (v : Word) : (s.setSeg r v).regs = s.regs.setSeg r v := rfl
@[simp] theorem State.setSeg_cr0Pe (r : SReg) (v : Word) : (s.setSeg r v).cr0Pe = s.cr0Pe := rfl
@[simp] theorem State.setSeg_mode (r : SReg) (v : Word) : (s.setSeg r v).mode = s.mode := rfl
@[simp] theorem State.setSeg_ovr (r : SReg) (v : Word) : (s.setSeg r v).ovr = s.ovr := rfl
@[simp] theorem State.setSeg_curOpcode (r : SReg) (v : Word) : (s.setSeg r v).curOpcode = s.curOpcode := rfl
@[simp] theorem State.setSeg_lastExec (r : SReg) (v : Word) : (s.setSeg r v).lastExec = s.lastExec := rfl
@[simp] theorem State.setSeg_halt (r : SReg) (v : Word) : (s.setSeg r v).halt = s.halt := rfl
@[simp] theorem State.setSeg_mem (r : SReg) (v : Word) : (s.setSeg r v).mem = s.mem := rfl
@[simp] theorem State.setSeg_ports (r : SReg) (v : Word) : (s.setSeg r v).ports = s.ports := rfl
@[simp] theorem State.setSeg_outMsgs (r : SReg) (v : Word) : (s.setSeg r v).outMsgs = s.outMsgs := rfl
@[simp] theorem State.setSeg_portEvents (r : SReg) (v : Word) : (s.setSeg r v).portEvents = s.portEvents := rfl
@[simp] theorem State.setSeg_drawCount (r : SReg) (v : Word) : (s.setSeg r v).drawCount = s.drawCount := rfl

@[simp] theorem State.setIp_regs (v : Word) : (s.setIp v).regs = s.regs.setIp v := rfl
@[simp] theorem State.setIp_cr0Pe (v : Word) : (s.setIp v).cr0Pe = s.cr0Pe := rfl
@[simp] theorem State.setIp_mode (v : Word) : (s.setIp v).mode = s.mode := rfl
@[simp] theorem State.setIp_ovr (v : Word) : (s.setIp v).ovr = s.ovr := rfl
@[simp] theorem State.setIp_curOpcode (v : Word) : (s.setIp v).curOpcode = s.curOpcode := rfl
@[simp] theorem State.setIp_lastExec (v : Word) : (s.setIp v).lastExec = s.lastExec := rfl
@[simp] theorem State.setIp_halt (v : Word) : (s.setIp v).halt = s.halt := rfl
@[simp] theorem State.setIp_mem (v : Word) : (s.setIp v).mem = s.mem := rfl
@[simp] theorem State.setIp_ports (v : Word) : (s.setIp v).ports = s.ports := rfl
@[simp] theorem State.setIp_outMsgs (v : Word) : (s.setIp v).outMsgs = s.outMsgs := rfl
@[simp] theorem State.setIp_portEvents (v : Word) : (s.setIp v).portEvents = s.portEvents := rfl
@[simp] theorem State.setIp_drawCount (v : Word) : (s.setIp v).drawCount = s.drawCount := rfl

@[simp] theorem State.advance_regs (n : Nat) : (s.advance n).regs = s.regs.setIp (s.ip + BitVec.ofNat 16 n) := rfl
@[simp] theorem State.advance_cr0Pe (n : Nat) : (s.advance n).cr0Pe = s.cr0Pe := rfl
@[simp] theorem State.advance_mode (n : Nat) : (s.advance n).mode = s.mode := rfl
@[simp] theorem State.advance_ovr (n : Nat) : (s.advance n).ovr = s.ovr := rfl
@[simp] theorem State.advance_curOpcode (n : Nat) : (s.advance n).curOpcode = s.curOpcode := rfl
@[simp] theorem State.advance_lastExec (n : Nat) : (s.advance n).lastExec = s.lastExec := rfl
@[simp] theorem State.advance_halt (n : Nat) : (s.advance n).halt = s.halt := rfl
@[simp] theorem State.advance_mem (n : Nat) : (s.advance n).mem = s.mem := rfl
@[simp] theorem State.advance_ports (n : Nat) : (s.advance n).ports = s.ports := rfl
@[simp] theorem State.advance_outMsgs (n : Nat) : (s.advance n).outMsgs = s.outMsgs := rfl
@[simp] theorem State.advance_portEvents (n : Nat) : (s.advance n).portEvents = s.portEvents := rfl
@[simp] theorem State.advance_drawCount (n : Nat) : (s.advance n).drawCount = s.drawCount := rfl

@[simp] theorem State.setFlags_regs (f : Flags) : (s.setFlags f).regs = s.regs.setFlags f := rfl
@[simp] theorem State.setFlags_cr0Pe (f : Flags) : (s.setFlags f).cr0Pe = s.cr0Pe := rfl
@[simp] theorem State.setFlags_mode (f : Flags) : (s.setFlags f).mode = s.mode := rfl
@[simp] theorem State.setFlags_ovr (f : Flags) : (s.setFlags f).ovr = s.ovr := rfl
@[simp] theorem State.setFlags_curOpcode (f : Flags) : (s.setFlags f).curOpcode = s.curOpcode := rfl
@[simp] theorem State.setFlags_lastExec (f : Flags) : (s.setFlags f).lastExec = s.lastExec := rfl
@[simp] theorem State.setFlags_halt (f : Flags) : (s.setFlags f).halt = s.halt := rfl
@[simp] theorem State.setFlags_mem (f : Flags) : (s.setFlags f).mem = s.mem := rfl
@[simp] theorem State.setFlags_ports (f : Flags) : (s.setFlags f).ports = s.ports := rfl
@[simp] theorem State.setFlags_outMsgs (f : Flags) : (s.setFlags f).outMsgs = s.outMsgs := rfl
@[simp] theorem State.setFlags_portEvents (f : Flags) : (s.setFlags f).portEvents = s.portEvents := rfl
@[simp] theorem State.setFlags_drawCount (f : Flags) : (s.setFlags f).drawCount = s.drawCount := rfl

@[simp] theorem State.setByteAt_regs (a : Linear) (v : Byte) : (s.setByteAt a v).regs = s.regs := rfl
@[simp] theorem State.setByteAt_cr0Pe (a : Linear) (v : Byte) : (s.setByteAt a v).cr0Pe = s.cr0Pe := rfl
@[simp] theorem State.setByteAt_mode (a : Linear) (v : Byte) : (s.setByteAt a v).mode = s.mode := rfl
@[simp] theorem State.setByteAt_ovr (a : Linear) (v : Byte) : (s.setByteAt a v).ovr = s.ovr := rfl
@[simp] theorem State.setByteAt_curOpcode (a : Linear) (v : Byte) : (s.setByteAt a v).curOpcode = s.curOpcode := rfl
@[simp] theorem State.setByteAt_lastExec (a : Linear) (v : Byte) : (s.setByteAt a v).lastExec = s.lastExec := rfl
@[simp] theorem State.setByteAt_halt (a : Linear) (v : Byte) : (s.setByteAt a v).halt = s.halt := rfl
@[simp] theorem State.setByteAt_mem (a : Linear) (v : Byte) : (s.setByteAt a v).mem = s.mem.write a.toNat v := rfl
@[simp] theorem State.setByteAt_ports (a : Linear) (v : Byte) : (s.setByteAt a v).ports = s.ports := rfl
@[simp] theorem State.setByteAt_outMsgs (a : Linear) (v : Byte) : (s.setByteAt a v).outMsgs = s.outMsgs := rfl
@[simp] theorem State.setByteAt_portEvents (a : Linear) (v : Byte) : (s.setByteAt a v).portEvents = s.portEvents := rfl
@[simp] theorem State.setByteAt_drawCount (a : Linear) (v : Byte) : (s.setByteAt a v).drawCount = s.drawCount := rfl

@[simp] theorem State.setWordAt_regs (a : Linear) (v : Word) : (s.setWordAt a v).regs = s.regs := rfl
@[simp] theorem State.setWordAt_cr0Pe (a : Linear) (v : Word) : (s.setWordAt a v).cr0Pe = s.cr0Pe := rfl
@[simp] theorem State.setWordAt_mode (a : Linear) (v : Word) : (s.setWordAt a v).mode = s.mode := rfl
@[simp] theorem State.setWordAt_ovr (a : Linear) (v : Word) : (s.setWordAt a v).ovr = s.ovr := rfl
@[simp] theorem State.setWordAt_curOpcode (a : Linear) (v : Word) : (s.setWordAt a v).curOpcode = s.curOpcode := rfl
@[simp] theorem State.setWordAt_lastExec (a : Linear) (v : Word) : (s.setWordAt a v).lastExec = s.lastExec := rfl
@[simp] theorem State.setWordAt_halt (a : Linear) (v : Word) : (s.setWordAt a v).halt = s.halt := rfl
@[simp] theorem State.setWordAt_mem (a : Linear) (v : Word) : (s.setWordAt a v).mem = (s.mem.write a.toNat (lo8 v)).write (a + 1).toNat (hi8 v) := rfl
@[simp] theorem State.setWordAt_ports (a : Linear) (v : Word) : (s.setWordAt a v).ports = s.ports := rfl
@[simp] theorem State.setWordAt_outMsgs (a : Linear) (v : Word) : (s.setWordAt a v).outMsgs = s.outMsgs := rfl
@[simp] theorem State.setWordAt_portEvents (a : Linear) (v : Word) : (s.setWordAt a v).portEvents = s.portEvents := rfl
@[simp] theorem State.setWordAt_drawCount (a : Linear) (v : Word) : (s.setWordAt a v).drawCount = s.drawCount := rfl

@[simp] theorem State.setPortAt_regs (p : Word) (v : Byte) : (s.setPortAt p v).regs = s.regs := rfl
@[simp] theorem State.setPortAt_cr0Pe (p : Word) (v : Byte) : (s.setPortAt p v).cr0Pe = s.cr0Pe := rfl
@[simp] theorem State.setPortAt_mode (p : Word) (v : Byte) : (s.setPortAt p v).mode = s.mode := rfl
@[simp] theorem State.setPortAt_ovr (p : Word) (v : Byte) : (s.setPortAt p v).ovr = s.ovr := rfl
@[simp] theorem State.setPortAt_curOpcode (p : Word) (v : Byte) : (s.setPortAt p v).curOpcode = s.curOpcode := rfl
@[simp] theorem State.setPortAt_lastExec (p : Word) (v : Byte) : (s.setPortAt p v).lastExec = s.lastExec := rfl
@[simp] theorem State.setPortAt_halt (p : Word) (v : Byte) : (s.setPortAt p v).halt = s.halt := rfl
@[simp] theorem State.setPortAt_mem (p : Word) (v : Byte) : (s.setPortAt p v).mem = s.mem := rfl
@[simp] theorem State.setPortAt_ports (p : Word) (v : Byte) : (s.setPortAt p v).ports = s.ports.write p.toNat v := rfl
@[simp] theorem State.setPortAt_outMsgs (p : Word) (v : Byte) : (s.setPortAt p v).outMsgs = s.outMsgs := rfl
@[simp] theorem State.setPortAt_portEvents (p : Word) (v : Byte) : (s.setPortAt p v).portEvents = s.portEvents := rfl
@[simp] theorem State.setPortAt_drawCount (p : Word) (v : Byte) : (s.setPortAt p v).drawCount = s.drawCount := rfl

@[simp] theorem State.record_regs (e : PortEvent) : (s.record e).regs = s.regs := rfl
@[simp] theorem State.record_cr0Pe (e : PortEvent) : (s.record e).cr0Pe = s.cr0Pe := rfl
@[simp] theorem State.record_mode (e : PortEvent) : (s.record e).mode = s.mode := rfl
@[simp] theorem State.record_ovr (e : PortEvent) : (s.record e).ovr = s.ovr := rfl
@[simp] theorem State.record_curOpcode (e : PortEvent) : (s.record e).curOpcode = s.curOpcode := rfl
@[simp] theorem State.record_lastExec (e : PortEvent) : (s.record e).lastExec = s.lastExec := rfl
@[simp] theorem State.record_halt (e : PortEvent) : (s.record e).halt = s.halt := rfl
@[simp] theorem State.record_mem (e : PortEvent) : (s.record e).mem = s.mem := rfl
@[simp] theorem State.record_ports (e : PortEvent) : (s.record e).ports = s.ports := rfl
@[simp] theorem State.record_outMsgs (e : PortEvent) : (s.record e).outMsgs = s.outMsgs := rfl
@[simp] theorem State.record_portEvents (e : PortEvent) : (s.record e).portEvents = s.portEvents ++ [e] := rfl
@[simp] theorem State.record_drawCount (e : PortEvent) : (s.record e).drawCount = s.drawCount := rfl

@[simp] theorem State.portWrite8_regs (p : Word) (v : Byte) : (s.portWrite8 p v).regs = s.regs := rfl
@[simp] theorem State.portWrite8_cr0Pe (p : Word) (v : Byte) : (s.portWrite8 p v).cr0Pe = s.cr0Pe := rfl
@[simp] theorem State.portWrite8_mode (p : Word) (v : Byte) : (s.portWrite8 p v).mode = s.mode := rfl
@[simp] theorem State.portWrite8_ovr (p : Word) (v : Byte) : (s.portWrite8 p v).ovr = s.ovr := rfl
@[simp] theorem State.portWrite8_curOpcode (p : Word) (v : Byte) : (s.portWrite8 p v).curOpcode = s.curOpcode := rfl
@[simp] theorem State.portWrite8_lastExec (p : Word) (v : Byte) : (s.portWrite8 p v).lastExec = s.lastExec := rfl
@[simp] theorem State.portWrite8_halt (p : Word) (v : Byte) : (s.portWrite8 p v).halt = s.halt := rfl
@[simp] theorem State.portWrite8_mem (p : Word) (v : Byte) : (s.portWrite8 p v).mem = s.mem := rfl
@[simp] theorem State.portWrite8_ports (p : Word) (v : Byte) : (s.portWrite8 p v).ports = s.ports.write p.toNat v := rfl
@[simp] theorem State.portWrite8_outMsgs (p : Word) (v : Byte) : (s.portWrite8 p v).outMsgs = s.outMsgs := rfl
@[simp] theorem State.portWrite8_portEvents (p : Word) (v : Byte) : (s.portWrite8 p v).portEvents = s.portEvents ++ [.write8 p v] := rfl
@[simp] theorem State.portWrite8_drawCount (p : Word) (v : Byte) : (s.portWrite8 p v).drawCount = s.drawCount := rfl

@[simp] theorem State.portWrite16_regs (p v : Word) : (s.portWrite16 p v).regs = s.regs := rfl
@[simp] theorem State.portWrite16_cr0Pe (p v : Word) : (s.portWrite16 p v).cr0Pe = s.cr0Pe := rfl
@[simp] theorem State.portWrite16_mode (p v : Word) : (s.portWrite16 p v).mode = s.mode := rfl
@[simp] theorem State.portWrite16_ovr (p v : Word) : (s.portWrite16 p v).ovr = s.ovr := rfl
@[simp] theorem State.portWrite16_curOpcode (p v : Word) : (s.portWrite16 p v).curOpcode = s.curOpcode := rfl
@[simp] theorem State.portWrite16_lastExec (p v : Word) : (s.portWrite16 p v).lastExec = s.lastExec := rfl
@[simp] theorem State.portWrite16_halt (p v : Word) : (s.portWrite16 p v).halt = s.halt := rfl
@[simp] theorem State.portWrite16_mem (p v : Word) : (s.portWrite16 p v).mem = s.mem := rfl
@[simp] theorem State.portWrite16_ports (p v : Word) : (s.portWrite16 p v).ports = (s.ports.write p.toNat (lo8 v)).write (p + 1).toNat (hi8 v) := rfl
@[simp] theorem State.portWrite16_outMsgs (p v : Word) : (s.portWrite16 p v).outMsgs = s.outMsgs := rfl
@[simp] theorem State.portWrite16_portEvents (p v : Word) : (s.portWrite16 p v).portEvents = s.portEvents ++ [.write16 p v] := rfl
@[simp] theorem State.portWrite16_drawCount (p v : Word) : (s.portWrite16 p v).drawCount = s.drawCount := rfl

@[simp] theorem State.captureOverride_regs (r : SReg) : (s.captureOverride r).regs = s.regs := rfl
@[simp] theorem State.captureOverride_cr0Pe (r : SReg) : (s.captureOverride r).cr0Pe = s.cr0Pe := rfl
@[simp] theorem State.captureOverride_mode (r : SReg) : (s.captureOverride r).mode = s.mode := rfl
@[simp] theorem State.captureOverride_ovr (r : SReg) : (s.captureOverride r).ovr = { enable := true, selector := s.seg r } := rfl
@[simp] theorem State.captureOverride_curOpcode (r : SReg) : (s.captureOverride r).curOpcode = s.curOpcode := rfl
@[simp] theorem State.captureOverride_lastExec (r : SReg) : (s.captureOverride r).lastExec = s.lastExec := rfl
@[simp] theorem State.captureOverride_halt (r : SReg) : (s.captureOverride r).halt = s.halt := rfl
@[simp] theorem State.captureOverride_mem (r : SReg) : (s.captureOverride r).mem = s.mem := rfl
@[simp] theorem State.captureOverride_ports (r : SReg) : (s.captureOverride r).ports = s.ports := rfl
@[simp] theorem State.captureOverride_outMsgs (r : SReg) : (s.captureOverride r).outMsgs = s.outMsgs := rfl
@[simp] theorem State.captureOverride_portEvents (r : SReg) : (s.captureOverride r).portEvents = s.portEvents := rfl
@[simp] theorem State.captureOverride_drawCount (r : SReg) : (s.captureOverride r).drawCount = s.drawCount := rfl

@[simp] theorem State.drawBit_regs : (s.drawBit.2).regs = s.regs := rfl
@[simp] theorem State.drawBit_cr0Pe : (s.drawBit.2).cr0Pe = s.cr0Pe := rfl
@[simp] theorem State.drawBit_mode : (s.drawBit.2).mode = s.mode := rfl
@[simp] theorem State.drawBit_ovr : (s.drawBit.2).ovr = s.ovr := rfl
@[simp] theorem State.drawBit_curOpcode : (s.drawBit.2).curOpcode = s.curOpcode := rfl
@[simp] theorem State.drawBit_lastExec : (s.drawBit.2).lastExec = s.lastExec := rfl
@[simp] theorem State.drawBit_halt : (s.drawBit.2).halt = s.halt := rfl
@[simp] theorem State.drawBit_mem : (s.drawBit.2).mem = s.mem := rfl
@[simp] theorem State.drawBit_ports : (s.drawBit.2).ports = s.ports := rfl
@[simp] theorem State.drawBit_outMsgs : (s.drawBit.2).outMsgs = s.outMsgs := rfl
@[simp] theorem State.drawBit_portEvents : (s.drawBit.2).portEvents = s.portEvents := rfl
@[simp] theorem State.drawBit_drawCount : (s.drawBit.2).drawCount = s.drawCount + 1 := rfl

@[simp] theorem State.fetchOpcode_regs : (s.fetchOpcode).regs = s.regs := rfl
@[simp] theorem State.fetchOpcode_cr0Pe : (s.fetchOpcode).cr0Pe = s.cr0Pe := rfl
@[simp] theorem State.fetchOpcode_mode : (s.fetchOpcode).mode = s.mode := rfl
@[simp] theorem State.fetchOpcode_ovr : (s.fetchOpcode).ovr = s.ovr := rfl
@[simp] theorem State.fetchOpcode_curOpcode : (s.fetchOpcode).curOpcode = s.fetch8 0 := rfl
@[simp] theorem State.fetchOpcode_lastExec : (s.fetchOpcode).lastExec = s.lastExec := rfl
@[simp] theorem State.fetchOpcode_halt : (s.fetchOpcode).halt = s.halt := rfl
@[simp] theorem State.fetchOpcode_mem : (s.fetchOpcode).mem = s.mem := rfl
@[simp] theorem State.fetchOpcode_ports : (s.fetchOpcode).ports = s.ports := rfl
@[simp] theorem State.fetchOpcode_outMsgs : (s.fetchOpcode).outMsgs = s.outMsgs := rfl
@[simp] theorem State.fetchOpcode_portEvents : (s.fetchOpcode).portEvents = s.portEvents := rfl
@[simp] theorem State.fetchOpcode_drawCount : (s.fetchOpcode).drawCount = s.drawCount := rfl

@[simp] theorem State.raiseFatal_regs (k : FatalKind) (m : Option Byte) : (s.raiseFatal k m).regs = s.regs := rfl
@[simp] theorem State.raiseFatal_cr0Pe (k : FatalKind) (m : Option Byte) : (s.raiseFatal k m).cr0Pe = s.cr0Pe := rfl
@[simp] theorem State.raiseFatal_mode (k : FatalKind) (m : Option Byte) : (s.raiseFatal k m).mode = s.mode := rfl
@[simp] theorem State.raiseFatal_ovr (k : FatalKind) (m : Option Byte) : (s.raiseFatal k m).ovr = s.ovr := rfl
@[simp] theorem State.raiseFatal_curOpcode (k : FatalKind) (m : Option Byte) : (s.raiseFatal k m).curOpcode = s.curOpcode := rfl
@[simp] theorem State.raiseFatal_lastExec (k : FatalKind) (m : Option Byte) : (s.raiseFatal k m).lastExec = s.lastExec := rfl
@[simp] theorem State.raiseFatal_halt (k : FatalKind) (m : Option Byte) : (s.raiseFatal k m).halt = .halted { kind := k, cs := s.regs.cs, ip := s.regs.ip, linear := s.curAddr, opcode := s.curOpcode, modrm := m, snapshot := s.regs } := rfl
@[simp] theorem State.raiseFatal_mem (k : FatalKind) (m : Option Byte) : (s.raiseFatal k m).mem = s.mem := rfl
@[simp] theorem State.raiseFatal_ports (k : FatalKind) (m : Option Byte) : (s.raiseFatal k m).ports = s.ports := rfl
@[simp] theorem State.raiseFatal_outMsgs (k : FatalKind) (m : Option Byte) : (s.raiseFatal k m).outMsgs = s.outMsgs := rfl
@[simp] theorem State.raiseFatal_portEvents (k : FatalKind) (m : Option Byte) : (s.raiseFatal k m).portEvents = s.portEvents := rfl
@[simp] theorem State.raiseFatal_drawCount (k : FatalKind) (m : Option Byte) : (s.raiseFatal k m).drawCount = s.drawCount := rfl

@[simp] theorem State.resetWrites_regs : (s.resetWrites).regs = { s.regs with cs := Config.resetCs, ip := Config.resetIp } := rfl
@[simp] theorem State.resetWrites_cr0Pe : (s.resetWrites).cr0Pe = s.cr0Pe := rfl
@[simp] theorem State.resetWrites_mode : (s.resetWrites).mode = s.mode := rfl
@[simp] theorem State.resetWrites_ovr : (s.resetWrites).ovr = { s.ovr with enable := false } := rfl
@[simp] theorem State.resetWrites_curOpcode : (s.resetWrites).curOpcode = s.curOpcode := rfl
@[simp] theorem State.resetWrites_lastExec : (s.resetWrites).lastExec = none := rfl
@[simp] theorem State.resetWrites_halt : (s.resetWrites).halt = s.halt := rfl
@[simp] theorem State.resetWrites_mem : (s.resetWrites).mem = s.mem := rfl
@[simp] theorem State.resetWrites_ports : (s.resetWrites).ports = s.ports := rfl
@[simp] theorem State.resetWrites_outMsgs : (s.resetWrites).outMsgs = s.outMsgs ++ [.globalLockBiosMemRegion] := rfl
@[simp] theorem State.resetWrites_portEvents : (s.resetWrites).portEvents = s.portEvents := rfl
@[simp] theorem State.resetWrites_drawCount : (s.resetWrites).drawCount = s.drawCount := rfl

end Sys2Proof.Machine
end

