-- ==== Sys2Proof/Laws/Registers.lean ====
section
/-! SUPPORT. The register file and the state's accessors: what each read gives after each write. -/

namespace Sys2Proof.Machine

@[simp] theorem RegFile.get16_set16 (f : RegFile) (r r' : Reg16) (v : Word) :
    (f.set16 r v).get16 r' = if r' = r then v else f.get16 r' := by
  cases r <;> cases r' <;> rfl

@[simp] theorem RegFile.getSeg_set16 (f : RegFile) (r : Reg16) (r' : SReg) (v : Word) :
    (f.set16 r v).getSeg r' = f.getSeg r' := by
  cases r <;> cases r' <;> rfl

@[simp] theorem RegFile.ip_set16 (f : RegFile) (r : Reg16) (v : Word) : (f.set16 r v).ip = f.ip := by cases r <;> rfl

@[simp] theorem RegFile.cs_set16 (f : RegFile) (r : Reg16) (v : Word) : (f.set16 r v).cs = f.cs := by cases r <;> rfl

@[simp] theorem RegFile.flags_set16 (f : RegFile) (r : Reg16) (v : Word) : (f.set16 r v).flags = f.flags := by
  cases r <;> rfl

@[simp] theorem RegFile.get16_setSeg (f : RegFile) (r : SReg) (r' : Reg16) (v : Word) :
    (f.setSeg r v).get16 r' = f.get16 r' := by
  cases r <;> cases r' <;> rfl

@[simp] theorem RegFile.getSeg_setSeg (f : RegFile) (r r' : SReg) (v : Word) :
    (f.setSeg r v).getSeg r' = if r' = r then v else f.getSeg r' := by
  cases r <;> cases r' <;> rfl

@[simp] theorem RegFile.ip_setSeg (f : RegFile) (r : SReg) (v : Word) : (f.setSeg r v).ip = f.ip := by cases r <;> rfl

@[simp] theorem RegFile.flags_setSeg (f : RegFile) (r : SReg) (v : Word) : (f.setSeg r v).flags = f.flags := by
  cases r <;> rfl

@[simp] theorem RegFile.get16_setIp (f : RegFile) (r : Reg16) (v : Word) : (f.setIp v).get16 r = f.get16 r := by
  cases r <;> rfl

@[simp] theorem RegFile.getSeg_setIp (f : RegFile) (r : SReg) (v : Word) : (f.setIp v).getSeg r = f.getSeg r := by
  cases r <;> rfl

@[simp] theorem RegFile.ip_setIp (f : RegFile) (v : Word) : (f.setIp v).ip = v := rfl

@[simp] theorem RegFile.cs_setIp (f : RegFile) (v : Word) : (f.setIp v).cs = f.cs := rfl

@[simp] theorem RegFile.flags_setIp (f : RegFile) (v : Word) : (f.setIp v).flags = f.flags := rfl

@[simp] theorem RegFile.get8_setIp (f : RegFile) (r : Reg8) (v : Word) : (f.setIp v).get8 r = f.get8 r := by
  simp [RegFile.get8]

@[simp] theorem RegFile.get16_setFlags (f : RegFile) (r : Reg16) (v : Flags) : (f.setFlags v).get16 r = f.get16 r := by
  cases r <;> rfl

@[simp] theorem RegFile.getSeg_setFlags (f : RegFile) (r : SReg) (v : Flags) : (f.setFlags v).getSeg r = f.getSeg r := by
  cases r <;> rfl

@[simp] theorem RegFile.ip_setFlags (f : RegFile) (v : Flags) : (f.setFlags v).ip = f.ip := rfl

@[simp] theorem RegFile.cs_setFlags (f : RegFile) (v : Flags) : (f.setFlags v).cs = f.cs := rfl

@[simp] theorem RegFile.flags_setFlags (f : RegFile) (v : Flags) : (f.setFlags v).flags = v := rfl

@[simp] theorem RegFile.get8_setFlags (f : RegFile) (r : Reg8) (v : Flags) : (f.setFlags v).get8 r = f.get8 r := by
  simp [RegFile.get8]

@[simp] theorem RegFile.get8_setSeg (f : RegFile) (r : SReg) (q : Reg8) (v : Word) : (f.setSeg r v).get8 q = f.get8 q := by
  simp [RegFile.get8]

/-- A view after a write of a 16-bit register. -/
theorem RegFile.get8_set16 (f : RegFile) (r : Reg16) (q : Reg8) (v : Word) :
    (f.set16 r v).get8 q = if parent8 q = r then (if isHigh8 q then hi8 v else lo8 v) else f.get8 q := by
  by_cases h : parent8 q = r <;> simp [RegFile.get8, h]

/-- The aliasing law: writing a view changes that view alone (spec/10_state.md R11). -/
@[simp] theorem RegFile.get8_set8 (f : RegFile) (r r' : Reg8) (v : Byte) :
    (f.set8 r v).get8 r' = if r' = r then v else f.get8 r' := by
  cases r <;> cases r' <;> simp [RegFile.get8, RegFile.set8, parent8, isHigh8]

theorem RegFile.get16_set8 (f : RegFile) (r : Reg8) (r' : Reg16) (v : Byte) :
    (f.set8 r v).get16 r' =
      if r' = parent8 r then (if isHigh8 r then word v (lo8 (f.get16 r')) else word (hi8 (f.get16 r')) v) else f.get16 r' := by
  simp only [RegFile.set8, RegFile.get16_set16]
  by_cases h : r' = parent8 r <;> simp [h]

@[simp] theorem RegFile.getSeg_set8 (f : RegFile) (r : Reg8) (r' : SReg) (v : Byte) :
    (f.set8 r v).getSeg r' = f.getSeg r' := by simp [RegFile.set8]

@[simp] theorem RegFile.ip_set8 (f : RegFile) (r : Reg8) (v : Byte) : (f.set8 r v).ip = f.ip := by simp [RegFile.set8]

@[simp] theorem RegFile.cs_set8 (f : RegFile) (r : Reg8) (v : Byte) : (f.set8 r v).cs = f.cs := by simp [RegFile.set8]

@[simp] theorem RegFile.flags_set8 (f : RegFile) (r : Reg8) (v : Byte) : (f.set8 r v).flags = f.flags := by
  simp [RegFile.set8]

variable (s : State)

@[simp] theorem State.r16_setR16 (r : Reg16) (v : Word) (r' : Reg16) : (s.setR16 r v).r16 r' = if r' = r then v else s.r16 r' := by
  simp [State.r16]
@[simp] theorem State.seg_setR16 (r : Reg16) (v : Word) (r' : SReg) : (s.setR16 r v).seg r' = s.seg r' := by
  simp [State.seg]
@[simp] theorem State.ip_setR16 (r : Reg16) (v : Word) : (s.setR16 r v).ip = s.ip := by
  simp [State.ip]
@[simp] theorem State.flags_setR16 (r : Reg16) (v : Word) : (s.setR16 r v).flags = s.flags := by
  simp [State.flags]
@[simp] theorem State.byteAt_setR16 (r : Reg16) (v : Word) (a' : Linear) : (s.setR16 r v).byteAt a' = s.byteAt a' := rfl
@[simp] theorem State.portAt_setR16 (r : Reg16) (v : Word) (p' : Word) : (s.setR16 r v).portAt p' = s.portAt p' := rfl

@[simp] theorem State.r8_setR8 (r : Reg8) (v : Byte) (r' : Reg8) : (s.setR8 r v).r8 r' = if r' = r then v else s.r8 r' := by
  simp [State.r8]
@[simp] theorem State.seg_setR8 (r : Reg8) (v : Byte) (r' : SReg) : (s.setR8 r v).seg r' = s.seg r' := by
  simp [State.seg]
@[simp] theorem State.ip_setR8 (r : Reg8) (v : Byte) : (s.setR8 r v).ip = s.ip := by
  simp [State.ip]
@[simp] theorem State.flags_setR8 (r : Reg8) (v : Byte) : (s.setR8 r v).flags = s.flags := by
  simp [State.flags]
@[simp] theorem State.byteAt_setR8 (r : Reg8) (v : Byte) (a' : Linear) : (s.setR8 r v).byteAt a' = s.byteAt a' := rfl
@[simp] theorem State.portAt_setR8 (r : Reg8) (v : Byte) (p' : Word) : (s.setR8 r v).portAt p' = s.portAt p' := rfl

@[simp] theorem State.r16_setSeg (r : SReg) (v : Word) (r' : Reg16) : (s.setSeg r v).r16 r' = s.r16 r' := by
  simp [State.r16]
@[simp] theorem State.r8_setSeg (r : SReg) (v : Word) (r' : Reg8) : (s.setSeg r v).r8 r' = s.r8 r' := by
  simp [State.r8, RegFile.get8]
@[simp] theorem State.seg_setSeg (r : SReg) (v : Word) (r' : SReg) : (s.setSeg r v).seg r' = if r' = r then v else s.seg r' := by
  simp [State.seg]
@[simp] theorem State.ip_setSeg (r : SReg) (v : Word) : (s.setSeg r v).ip = s.ip := by
  simp [State.ip]
@[simp] theorem State.flags_setSeg (r : SReg) (v : Word) : (s.setSeg r v).flags = s.flags := by
  simp [State.flags]
@[simp] theorem State.byteAt_setSeg (r : SReg) (v : Word) (a' : Linear) : (s.setSeg r v).byteAt a' = s.byteAt a' := rfl
@[simp] theorem State.portAt_setSeg (r : SReg) (v : Word) (p' : Word) : (s.setSeg r v).portAt p' = s.portAt p' := rfl

@[simp] theorem State.r16_setIp (v : Word) (r' : Reg16) : (s.setIp v).r16 r' = s.r16 r' := by
  simp [State.r16]
@[simp] theorem State.r8_setIp (v : Word) (r' : Reg8) : (s.setIp v).r8 r' = s.r8 r' := by
  simp [State.r8, RegFile.get8]
@[simp] theorem State.seg_setIp (v : Word) (r' : SReg) : (s.setIp v).seg r' = s.seg r' := by
  simp [State.seg]
@[simp] theorem State.ip_setIp (v : Word) : (s.setIp v).ip = v := rfl
@[simp] theorem State.flags_setIp (v : Word) : (s.setIp v).flags = s.flags := by
  simp [State.flags]
@[simp] theorem State.byteAt_setIp (v : Word) (a' : Linear) : (s.setIp v).byteAt a' = s.byteAt a' := rfl
@[simp] theorem State.portAt_setIp (v : Word) (p' : Word) : (s.setIp v).portAt p' = s.portAt p' := rfl

@[simp] theorem State.r16_advance (n : Nat) (r' : Reg16) : (s.advance n).r16 r' = s.r16 r' := by
  simp [State.r16]
@[simp] theorem State.r8_advance (n : Nat) (r' : Reg8) : (s.advance n).r8 r' = s.r8 r' := by
  simp [State.r8, RegFile.get8]
@[simp] theorem State.seg_advance (n : Nat) (r' : SReg) : (s.advance n).seg r' = s.seg r' := by
  simp [State.seg]
@[simp] theorem State.ip_advance (n : Nat) : (s.advance n).ip = s.ip + BitVec.ofNat 16 n := rfl
@[simp] theorem State.flags_advance (n : Nat) : (s.advance n).flags = s.flags := by
  simp [State.flags]
@[simp] theorem State.byteAt_advance (n : Nat) (a' : Linear) : (s.advance n).byteAt a' = s.byteAt a' := rfl
@[simp] theorem State.portAt_advance (n : Nat) (p' : Word) : (s.advance n).portAt p' = s.portAt p' := rfl

@[simp] theorem State.r16_setFlags (f : Flags) (r' : Reg16) : (s.setFlags f).r16 r' = s.r16 r' := by
  simp [State.r16]
@[simp] theorem State.r8_setFlags (f : Flags) (r' : Reg8) : (s.setFlags f).r8 r' = s.r8 r' := by
  simp [State.r8, RegFile.get8]
@[simp] theorem State.seg_setFlags (f : Flags) (r' : SReg) : (s.setFlags f).seg r' = s.seg r' := by
  simp [State.seg]
@[simp] theorem State.ip_setFlags (f : Flags) : (s.setFlags f).ip = s.ip := by
  simp [State.ip]
@[simp] theorem State.flags_setFlags (f : Flags) : (s.setFlags f).flags = f := rfl
@[simp] theorem State.byteAt_setFlags (f : Flags) (a' : Linear) : (s.setFlags f).byteAt a' = s.byteAt a' := rfl
@[simp] theorem State.portAt_setFlags (f : Flags) (p' : Word) : (s.setFlags f).portAt p' = s.portAt p' := rfl

@[simp] theorem State.r16_setByteAt (a : Linear) (v : Byte) (r' : Reg16) : (s.setByteAt a v).r16 r' = s.r16 r' := rfl
@[simp] theorem State.r8_setByteAt (a : Linear) (v : Byte) (r' : Reg8) : (s.setByteAt a v).r8 r' = s.r8 r' := rfl
@[simp] theorem State.seg_setByteAt (a : Linear) (v : Byte) (r' : SReg) : (s.setByteAt a v).seg r' = s.seg r' := rfl
@[simp] theorem State.ip_setByteAt (a : Linear) (v : Byte) : (s.setByteAt a v).ip = s.ip := rfl
@[simp] theorem State.flags_setByteAt (a : Linear) (v : Byte) : (s.setByteAt a v).flags = s.flags := rfl
@[simp] theorem State.byteAt_setByteAt (a : Linear) (v : Byte) (a' : Linear) : (s.setByteAt a v).byteAt a' = if a' = a then v else s.byteAt a' := by
  simp [State.byteAt, Memory.read_write, BitVec.toNat_inj]
@[simp] theorem State.portAt_setByteAt (a : Linear) (v : Byte) (p' : Word) : (s.setByteAt a v).portAt p' = s.portAt p' := rfl

@[simp] theorem State.r16_setWordAt (a : Linear) (v : Word) (r' : Reg16) : (s.setWordAt a v).r16 r' = s.r16 r' := rfl
@[simp] theorem State.r8_setWordAt (a : Linear) (v : Word) (r' : Reg8) : (s.setWordAt a v).r8 r' = s.r8 r' := rfl
@[simp] theorem State.seg_setWordAt (a : Linear) (v : Word) (r' : SReg) : (s.setWordAt a v).seg r' = s.seg r' := rfl
@[simp] theorem State.ip_setWordAt (a : Linear) (v : Word) : (s.setWordAt a v).ip = s.ip := rfl
@[simp] theorem State.flags_setWordAt (a : Linear) (v : Word) : (s.setWordAt a v).flags = s.flags := rfl
@[simp] theorem State.byteAt_setWordAt (a : Linear) (v : Word) (a' : Linear) : (s.setWordAt a v).byteAt a' = if a' = a + 1 then hi8 v else if a' = a then lo8 v else s.byteAt a' := by
  simp only [State.byteAt, State.setWordAt_mem, Memory.read_write, BitVec.toNat_inj]
@[simp] theorem State.portAt_setWordAt (a : Linear) (v : Word) (p' : Word) : (s.setWordAt a v).portAt p' = s.portAt p' := rfl

@[simp] theorem State.r16_setPortAt (p : Word) (v : Byte) (r' : Reg16) : (s.setPortAt p v).r16 r' = s.r16 r' := rfl
@[simp] theorem State.r8_setPortAt (p : Word) (v : Byte) (r' : Reg8) : (s.setPortAt p v).r8 r' = s.r8 r' := rfl
@[simp] theorem State.seg_setPortAt (p : Word) (v : Byte) (r' : SReg) : (s.setPortAt p v).seg r' = s.seg r' := rfl
@[simp] theorem State.ip_setPortAt (p : Word) (v : Byte) : (s.setPortAt p v).ip = s.ip := rfl
@[simp] theorem State.flags_setPortAt (p : Word) (v : Byte) : (s.setPortAt p v).flags = s.flags := rfl
@[simp] theorem State.byteAt_setPortAt (p : Word) (v : Byte) (a' : Linear) : (s.setPortAt p v).byteAt a' = s.byteAt a' := rfl
@[simp] theorem State.portAt_setPortAt (p : Word) (v : Byte) (p' : Word) : (s.setPortAt p v).portAt p' = if p' = p then v else s.portAt p' := by
  simp only [State.portAt, State.setPortAt_ports, Memory.read_write, BitVec.toNat_inj]

@[simp] theorem State.r16_record (e : PortEvent) (r' : Reg16) : (s.record e).r16 r' = s.r16 r' := rfl
@[simp] theorem State.r8_record (e : PortEvent) (r' : Reg8) : (s.record e).r8 r' = s.r8 r' := rfl
@[simp] theorem State.seg_record (e : PortEvent) (r' : SReg) : (s.record e).seg r' = s.seg r' := rfl
@[simp] theorem State.ip_record (e : PortEvent) : (s.record e).ip = s.ip := rfl
@[simp] theorem State.flags_record (e : PortEvent) : (s.record e).flags = s.flags := rfl
@[simp] theorem State.byteAt_record (e : PortEvent) (a' : Linear) : (s.record e).byteAt a' = s.byteAt a' := rfl
@[simp] theorem State.portAt_record (e : PortEvent) (p' : Word) : (s.record e).portAt p' = s.portAt p' := rfl

@[simp] theorem State.r16_portWrite8 (p : Word) (v : Byte) (r' : Reg16) : (s.portWrite8 p v).r16 r' = s.r16 r' := rfl
@[simp] theorem State.r8_portWrite8 (p : Word) (v : Byte) (r' : Reg8) : (s.portWrite8 p v).r8 r' = s.r8 r' := rfl
@[simp] theorem State.seg_portWrite8 (p : Word) (v : Byte) (r' : SReg) : (s.portWrite8 p v).seg r' = s.seg r' := rfl
@[simp] theorem State.ip_portWrite8 (p : Word) (v : Byte) : (s.portWrite8 p v).ip = s.ip := rfl
@[simp] theorem State.flags_portWrite8 (p : Word) (v : Byte) : (s.portWrite8 p v).flags = s.flags := rfl
@[simp] theorem State.byteAt_portWrite8 (p : Word) (v : Byte) (a' : Linear) : (s.portWrite8 p v).byteAt a' = s.byteAt a' := rfl
@[simp] theorem State.portAt_portWrite8 (p : Word) (v : Byte) (p' : Word) : (s.portWrite8 p v).portAt p' = if p' = p then v else s.portAt p' := by
  simp only [State.portAt, State.portWrite8_ports, Memory.read_write, BitVec.toNat_inj]

@[simp] theorem State.r16_portWrite16 (p v : Word) (r' : Reg16) : (s.portWrite16 p v).r16 r' = s.r16 r' := rfl
@[simp] theorem State.r8_portWrite16 (p v : Word) (r' : Reg8) : (s.portWrite16 p v).r8 r' = s.r8 r' := rfl
@[simp] theorem State.seg_portWrite16 (p v : Word) (r' : SReg) : (s.portWrite16 p v).seg r' = s.seg r' := rfl
@[simp] theorem State.ip_portWrite16 (p v : Word) : (s.portWrite16 p v).ip = s.ip := rfl
@[simp] theorem State.flags_portWrite16 (p v : Word) : (s.portWrite16 p v).flags = s.flags := rfl
@[simp] theorem State.byteAt_portWrite16 (p v : Word) (a' : Linear) : (s.portWrite16 p v).byteAt a' = s.byteAt a' := rfl
@[simp] theorem State.portAt_portWrite16 (p v : Word) (p' : Word) : (s.portWrite16 p v).portAt p' = if p' = p + 1 then hi8 v else if p' = p then lo8 v else s.portAt p' := by
  simp only [State.portAt, State.portWrite16_ports, Memory.read_write, BitVec.toNat_inj]

@[simp] theorem State.r16_captureOverride (r : SReg) (r' : Reg16) : (s.captureOverride r).r16 r' = s.r16 r' := rfl
@[simp] theorem State.r8_captureOverride (r : SReg) (r' : Reg8) : (s.captureOverride r).r8 r' = s.r8 r' := rfl
@[simp] theorem State.seg_captureOverride (r : SReg) (r' : SReg) : (s.captureOverride r).seg r' = s.seg r' := rfl
@[simp] theorem State.ip_captureOverride (r : SReg) : (s.captureOverride r).ip = s.ip := rfl
@[simp] theorem State.flags_captureOverride (r : SReg) : (s.captureOverride r).flags = s.flags := rfl
@[simp] theorem State.byteAt_captureOverride (r : SReg) (a' : Linear) : (s.captureOverride r).byteAt a' = s.byteAt a' := rfl
@[simp] theorem State.portAt_captureOverride (r : SReg) (p' : Word) : (s.captureOverride r).portAt p' = s.portAt p' := rfl

@[simp] theorem State.r16_drawBit (r' : Reg16) : (s.drawBit.2).r16 r' = s.r16 r' := rfl
@[simp] theorem State.r8_drawBit (r' : Reg8) : (s.drawBit.2).r8 r' = s.r8 r' := rfl
@[simp] theorem State.seg_drawBit (r' : SReg) : (s.drawBit.2).seg r' = s.seg r' := rfl
@[simp] theorem State.ip_drawBit : (s.drawBit.2).ip = s.ip := rfl
@[simp] theorem State.flags_drawBit : (s.drawBit.2).flags = s.flags := rfl
@[simp] theorem State.byteAt_drawBit (a' : Linear) : (s.drawBit.2).byteAt a' = s.byteAt a' := rfl
@[simp] theorem State.portAt_drawBit (p' : Word) : (s.drawBit.2).portAt p' = s.portAt p' := rfl

@[simp] theorem State.r16_fetchOpcode (r' : Reg16) : (s.fetchOpcode).r16 r' = s.r16 r' := rfl
@[simp] theorem State.r8_fetchOpcode (r' : Reg8) : (s.fetchOpcode).r8 r' = s.r8 r' := rfl
@[simp] theorem State.seg_fetchOpcode (r' : SReg) : (s.fetchOpcode).seg r' = s.seg r' := rfl
@[simp] theorem State.ip_fetchOpcode : (s.fetchOpcode).ip = s.ip := rfl
@[simp] theorem State.flags_fetchOpcode : (s.fetchOpcode).flags = s.flags := rfl
@[simp] theorem State.byteAt_fetchOpcode (a' : Linear) : (s.fetchOpcode).byteAt a' = s.byteAt a' := rfl
@[simp] theorem State.portAt_fetchOpcode (p' : Word) : (s.fetchOpcode).portAt p' = s.portAt p' := rfl

@[simp] theorem State.r16_raiseFatal (k : FatalKind) (m : Option Byte) (r' : Reg16) : (s.raiseFatal k m).r16 r' = s.r16 r' := rfl
@[simp] theorem State.r8_raiseFatal (k : FatalKind) (m : Option Byte) (r' : Reg8) : (s.raiseFatal k m).r8 r' = s.r8 r' := rfl
@[simp] theorem State.seg_raiseFatal (k : FatalKind) (m : Option Byte) (r' : SReg) : (s.raiseFatal k m).seg r' = s.seg r' := rfl
@[simp] theorem State.ip_raiseFatal (k : FatalKind) (m : Option Byte) : (s.raiseFatal k m).ip = s.ip := rfl
@[simp] theorem State.flags_raiseFatal (k : FatalKind) (m : Option Byte) : (s.raiseFatal k m).flags = s.flags := rfl
@[simp] theorem State.byteAt_raiseFatal (k : FatalKind) (m : Option Byte) (a' : Linear) : (s.raiseFatal k m).byteAt a' = s.byteAt a' := rfl
@[simp] theorem State.portAt_raiseFatal (k : FatalKind) (m : Option Byte) (p' : Word) : (s.raiseFatal k m).portAt p' = s.portAt p' := rfl

/-- A 16-bit register after a write of a view: only the view's byte of its parent changes. -/
theorem State.r16_setR8 (r : Reg8) (q : Reg16) (v : Byte) :
    (s.setR8 r v).r16 q =
      if q = parent8 r then (if isHigh8 r then word v (lo8 (s.r16 q)) else word (hi8 (s.r16 q)) v) else s.r16 q :=
  RegFile.get16_set8 _ _ _ _

/-- A view after a write of a 16-bit register. -/
theorem State.r8_setR16 (r : Reg16) (q : Reg8) (v : Word) :
    (s.setR16 r v).r8 q = if parent8 q = r then (if isHigh8 q then hi8 v else lo8 v) else s.r8 q :=
  RegFile.get8_set16 _ _ _ _

@[simp] theorem State.curAddr_fetchOpcode : s.fetchOpcode.curAddr = s.curAddr := rfl
@[simp] theorem State.fetchAddr_fetchOpcode (k : Nat) : s.fetchOpcode.fetchAddr k = s.fetchAddr k := rfl
@[simp] theorem State.wordAt_fetchOpcode (a : Linear) : s.fetchOpcode.wordAt a = s.wordAt a := rfl

/-- A word just written reads back (spec/20_memory.md R43). -/
@[simp] theorem State.wordAt_setWordAt_same (a : Linear) (v : Word) : (s.setWordAt a v).wordAt a = v := by
  simp [State.wordAt]

end Sys2Proof.Machine
end

