-- ==== Sys2Proof/Laws/Operands.lean ====
section
/-! SUPPORT. What the operand forms and the flag computations can do: one lemma per shared operation. -/

namespace Sys2Proof.Machine

variable (s : State)

@[simp] theorem State.place_reg {ρ : Type} (r : ρ) : s.place (.reg r) = .reg r := rfl

@[simp] theorem State.place_mem {ρ : Type} (ea : EA) : s.place (.mem ea : RM ρ) = .mem (s.eaLinear ea) := rfl

/-- The data segment is the override's selector or the default's (spec/20_memory.md R45). -/
theorem State.dataSeg_cases (d : SReg) :
    (s.ovr.enable = true ∧ s.dataSeg d = s.ovr.selector) ∨ (s.ovr.enable = false ∧ s.dataSeg d = s.seg d) := by
  unfold State.dataSeg
  cases h : s.ovr.enable <;> simp

theorem eaSeg_cases (ea : EA) : eaSeg ea = .ss ∨ eaSeg ea = .ds := by
  rcases ea with d | b | ⟨b, d⟩ | ⟨b, d⟩
  · exact .inr rfl
  all_goals cases b <;> simp [eaSeg, baseSeg, usesBp]

/-- A short jump writes IP and nothing else (spec/41_control_transfer.md R125). -/
theorem State.jumpShortIf_eq (taken : Bool) (rel : Byte) :
    s.jumpShortIf taken rel = s.setIp (s.ip + 2 + if taken then sext16 rel else 0) := by
  unfold State.jumpShortIf State.shortTarget State.advance
  cases taken <;> simp

/-- Writing a 16-bit operand and reading it back through the same place. -/
theorem State.readPlace16_writePlace16 (v : Word) (p : Place Reg16) : (s.writePlace16 v p).readPlace16 p = v := by
  cases p <;> simp [State.writePlace16, State.readPlace16]

/-- A 16-bit operand write changes a general register or memory, nothing else (spec/30_encoding.md R86). -/
theorem State.writePlace16_frame (v : Word) (p : Place Reg16) :
    let t := s.writePlace16 v p
    (∀ r, t.r16 r = if p = .reg r then v else s.r16 r) ∧ (∀ r, t.seg r = s.seg r) ∧ t.ip = s.ip ∧ t.flags = s.flags ∧
      (∀ a, t.byteAt a =
        match p with
        | .reg _ => s.byteAt a
        | .mem l => if a = l + 1 then hi8 v else if a = l then lo8 v else s.byteAt a) ∧
      t.ports = s.ports ∧ t.portEvents = s.portEvents ∧ t.ovr = s.ovr ∧ t.halt = s.halt ∧ t.lastExec = s.lastExec ∧
      t.curOpcode = s.curOpcode ∧ t.mode = s.mode ∧ t.cr0Pe = s.cr0Pe ∧ t.outMsgs = s.outMsgs ∧ t.drawCount = s.drawCount := by
  cases p <;> simp [State.writePlace16, eq_comm]

/-- The six flags of a comparison are those of the difference; TF, IF and DF are kept (spec/43_alu.md R136). -/
theorem cmpFlags_kept (f : Flags) (a b : Byte) :
    (cmpFlags f a b).tF = f.tF ∧ (cmpFlags f a b).iF = f.iF ∧ (cmpFlags f a b).dF = f.dF := ⟨rfl, rfl, rfl⟩

/-- TEST keeps TF, IF and DF, clears CF and OF, and takes AF from outside (spec/43_alu.md R137). -/
theorem testFlags_kept (f : Flags) (a b : Byte) (af : Bool) :
    (testFlags f a b af).tF = f.tF ∧ (testFlags f a b af).iF = f.iF ∧ (testFlags f a b af).dF = f.dF ∧
      (testFlags f a b af).cF = false ∧ (testFlags f a b af).oF = false ∧ (testFlags f a b af).aF = af :=
  ⟨rfl, rfl, rfl, rfl, rfl, rfl⟩

/-- The spec's parity vectors (spec/43_alu.md R135, spec/95_test_vectors.md section 2.7). -/
theorem parityOf_vectors :
    parityOf 0x00 = true ∧ parityOf 0x01 = false ∧ parityOf 0x03 = true ∧ parityOf 0x7F = false ∧ parityOf 0x80 = false ∧
      parityOf 0xFF = true ∧ parityOf 0x0F = true ∧ parityOf 0x02 = false := by decide

end Sys2Proof.Machine
end

