-- ==== Sys2Proof/Laws/Step.lean ====
section
/-! SUPPORT. What a step and its parts can do, said once. -/

namespace Sys2Proof.Machine

/-- Every instruction has a next state from every state: no meaning faults or refuses. -/
theorem exec_next (i : Instr) (s : State) : ∃ t, exec i s = .next t := by
  cases i
  case movRm16Sreg rm f =>
    simp only [exec, execMovRm16Sreg]
    split <;> exact ⟨_, rfl⟩
  case movSregRm16 f rm =>
    simp only [exec, execMovSregRm16]
    split <;> exact ⟨_, rfl⟩
  all_goals exact ⟨_, rfl⟩

/-- The end of a step in which the handler raised nothing (spec/48_step_driver.md R175, actions 5a and 6). -/
theorem State.complete_running {s : State} (cur : Linear) (h : s.halt = .running) :
    s.complete cur =
      { s with
        ovr := if isOverrideByte s.curOpcode then s.ovr else { s.ovr with enable := false }
        lastExec := some cur } := by
  simp [State.complete, h]

/-- The end of a step whose handler raised a fatal condition (spec/60_exceptions.md R205). -/
theorem State.complete_halted {s : State} {r : HaltRecord} (cur : Linear) (h : s.halt = .halted r) : s.complete cur = s := by
  simp [State.complete, h]

/-- Everything a step that answers a next state can be: the watchdog's halt, the unknown opcode's halt, or an instruction. -/
theorem step_cases {s t : State} (h : step s = .next t) :
    s.halt = .running ∧
      ((s.watchdogTrips = true ∧ t = s.haltNotAdvanced) ∨
       (s.watchdogTrips = false ∧ (∃ e, s.lookup = .error e) ∧ t = s.haltUnknownOpcode) ∨
       (s.watchdogTrips = false ∧ ∃ i u, s.lookup = .ok i ∧ exec i s.fetchOpcode = .next u ∧ t = u.complete s.curAddr)) := by
  unfold step at h
  split at h
  · cases h
  next hr =>
  refine ⟨hr, ?_⟩
  split at h
  · next hw =>
    cases h
    exact .inl ⟨hw, rfl⟩
  next hw =>
  have hw' : s.watchdogTrips = false := by simpa using hw
  split at h
  · next e he =>
    cases h
    exact .inr (.inl ⟨hw', ⟨e, he⟩, rfl⟩)
  next i hi =>
  obtain ⟨u, hu⟩ := exec_next i s.fetchOpcode
  rw [hu] at h
  cases h
  exact .inr (.inr ⟨hw', i, u, hi, hu, rfl⟩)

end Sys2Proof.Machine
end

