-- ==== Sys2Proof/Laws/Exec.lean ====
section
/-! SUPPORT. What every instruction keeps: the fields no instruction writes, the canonical form of both byte arrays, and the one
way an instruction can halt. -/

namespace Sys2Proof.Machine

/-- Both byte arrays are canonical. -/
def State.arraysWf (s : State) : Prop := s.mem.wf Config.memSize = true ∧ s.ports.wf Config.portSize = true

theorem State.reset_arraysWf : State.reset.arraysWf := ⟨rfl, rfl⟩

variable {s : State}

theorem State.arraysWf_setByteAt (h : s.arraysWf) (a : Linear) (v : Byte) : (s.setByteAt a v).arraysWf :=
  ⟨Memory.wf_write _ v a.isLt h.1, h.2⟩

theorem State.arraysWf_setWordAt (h : s.arraysWf) (a : Linear) (v : Word) : (s.setWordAt a v).arraysWf :=
  State.arraysWf_setByteAt (State.arraysWf_setByteAt h _ _) _ _

theorem State.arraysWf_setPortAt (h : s.arraysWf) (p : Word) (v : Byte) : (s.setPortAt p v).arraysWf :=
  ⟨h.1, Memory.wf_write _ v p.isLt h.2⟩

theorem State.arraysWf_portWrite8 (h : s.arraysWf) (p : Word) (v : Byte) : (s.portWrite8 p v).arraysWf :=
  State.arraysWf_setPortAt h _ _

theorem State.arraysWf_portWrite16 (h : s.arraysWf) (p v : Word) : (s.portWrite16 p v).arraysWf :=
  State.arraysWf_setPortAt (State.arraysWf_setPortAt h _ _) _ _

theorem State.arraysWf_writePlace16 (h : s.arraysWf) (v : Word) (p : Place Reg16) : (s.writePlace16 v p).arraysWf := by
  cases p
  · exact h
  · exact State.arraysWf_setWordAt h _ _

/-- No instruction writes CR0, MODE, CUR_OPCODE, LAST_EXEC or OUT_MSGS, none changes TF or sets IF or DF, and the only one that
halts is an `Sreg` move whose field names no segment register, through `raiseFatal` alone. -/
theorem exec_keeps {i : Instr} {t : State} (h : exec i s = .next t) :
    t.cr0Pe = s.cr0Pe ∧ t.mode = s.mode ∧ t.curOpcode = s.curOpcode ∧ t.lastExec = s.lastExec ∧ t.outMsgs = s.outMsgs ∧
    t.flags.tF = s.flags.tF ∧ (t.flags.iF = true → s.flags.iF = true) ∧ (t.flags.dF = true → s.flags.dF = true) ∧
    (t.halt = s.halt ∨
      ∃ (rm : RM Reg16) (f : BitVec 3), SReg.ofField f = none ∧ (i = .movRm16Sreg rm f ∨ i = .movSregRm16 f rm) ∧
        t = s.raiseFatal .unrecognizedSubencoding (some (rm.modrmByte Reg16.field f))) := by
  cases i
  case movRm16Sreg rm f =>
    simp only [exec, execMovRm16Sreg] at h
    cases hf : SReg.ofField f <;> rw [hf] at h <;> cases h
    · exact ⟨rfl, rfl, rfl, rfl, rfl, rfl, id, id, .inr ⟨rm, f, hf, .inl rfl, rfl⟩⟩
    · cases rm <;> refine ⟨rfl, rfl, rfl, rfl, rfl, ?_, ?_, ?_, .inl rfl⟩ <;> simp [State.writePlace16]
  case movSregRm16 f rm =>
    simp only [exec, execMovSregRm16] at h
    cases hf : SReg.ofField f <;> rw [hf] at h <;> cases h
    · exact ⟨rfl, rfl, rfl, rfl, rfl, rfl, id, id, .inr ⟨rm, f, hf, .inr rfl, rfl⟩⟩
    · refine ⟨rfl, rfl, rfl, rfl, rfl, ?_, ?_, ?_, .inl rfl⟩ <;> simp
  case xchgRm16R16 rm r =>
    cases h
    cases rm <;> refine ⟨rfl, rfl, rfl, rfl, rfl, ?_, ?_, ?_, .inl rfl⟩ <;> simp [State.writePlace16]
  case jzRel8 =>
    simp only [exec, execJzRel8, State.jumpShortIf_eq] at h
    cases h
    exact ⟨rfl, rfl, rfl, rfl, rfl, rfl, id, id, .inl rfl⟩
  case jnzRel8 =>
    simp only [exec, execJnzRel8, State.jumpShortIf_eq] at h
    cases h
    exact ⟨rfl, rfl, rfl, rfl, rfl, rfl, id, id, .inl rfl⟩
  case jcxzRel8 =>
    simp only [exec, execJcxzRel8, State.jumpShortIf_eq] at h
    cases h
    exact ⟨rfl, rfl, rfl, rfl, rfl, rfl, id, id, .inl rfl⟩
  case cli => cases h; exact ⟨rfl, rfl, rfl, rfl, rfl, rfl, by simp, id, .inl rfl⟩
  case cld => cases h; exact ⟨rfl, rfl, rfl, rfl, rfl, rfl, id, by simp, .inl rfl⟩
  case cmpAlImm8 => cases h; exact ⟨rfl, rfl, rfl, rfl, rfl, rfl, id, id, .inl rfl⟩
  case testAlImm8 => cases h; exact ⟨rfl, rfl, rfl, rfl, rfl, rfl, id, id, .inl rfl⟩
  all_goals
    cases h
    refine ⟨rfl, rfl, rfl, rfl, rfl, ?_, ?_, ?_, .inl rfl⟩ <;> simp [State.portRead8, State.portRead16]

/-- Every instruction keeps both byte arrays canonical. -/
theorem exec_arraysWf {i : Instr} {t : State} (h : exec i s = .next t) (hw : s.arraysWf) : t.arraysWf := by
  cases i
  case movRm16Sreg rm f =>
    simp only [exec, execMovRm16Sreg] at h
    cases hf : SReg.ofField f <;> rw [hf] at h <;> cases h
    · exact hw
    · exact State.arraysWf_writePlace16 hw _ _
  case movSregRm16 f rm =>
    simp only [exec, execMovSregRm16] at h
    cases hf : SReg.ofField f <;> rw [hf] at h <;> cases h <;> exact hw
  case xchgRm16R16 rm r => cases h; exact State.arraysWf_writePlace16 hw _ _
  case movDisp8Al => cases h; exact State.arraysWf_setByteAt hw _ _
  case movDisp16Ax => cases h; exact State.arraysWf_setWordAt hw _ _
  case outImm8Al => cases h; exact State.arraysWf_portWrite8 hw _ _
  case outImm8Ax => cases h; exact State.arraysWf_portWrite16 hw _ _
  case outDxAl => cases h; exact State.arraysWf_portWrite8 hw _ _
  case outDxAx => cases h; exact State.arraysWf_portWrite16 hw _ _
  case jzRel8 => simp only [exec, execJzRel8, State.jumpShortIf_eq] at h; cases h; exact hw
  case jnzRel8 => simp only [exec, execJnzRel8, State.jumpShortIf_eq] at h; cases h; exact hw
  case jcxzRel8 => simp only [exec, execJcxzRel8, State.jumpShortIf_eq] at h; cases h; exact hw
  all_goals
    cases h
    exact hw

end Sys2Proof.Machine
end

