-- ==== Sys2Proof/Laws/Frames.lean ====
section
/-! SUPPORT. The frame vocabulary of the claims. -/

namespace Sys2Proof.Safety

open Sys2Proof.Machine

/-- A frame from the fields: memory and ports unchanged as data read alike everywhere. -/
theorem framed_of_fields {w : List Part} {s t : State} (hg : ∀ r, .gpr r ∉ w → t.r16 r = s.r16 r)
    (hs : ∀ r, .seg r ∉ w → t.seg r = s.seg r) (hf : ∀ f, .flag f ∉ w → flag t.flags f = flag s.flags f)
    (ho : .ovr ∉ w → t.ovr = s.ovr) (hm : .mem ∉ w → t.mem = s.mem)
    (hp : .ports ∉ w → t.ports = s.ports ∧ t.portEvents = s.portEvents) (hd : .draws ∉ w → t.drawCount = s.drawCount)
    (hh : .halt ∉ w → t.halt = s.halt)
    (hc : t.cr0Pe = s.cr0Pe ∧ t.mode = s.mode ∧ t.curOpcode = s.curOpcode ∧ t.lastExec = s.lastExec ∧
      t.outMsgs = s.outMsgs) : Framed w s t :=
  ⟨hg, hs, hf, ho, fun h a => by simp [State.byteAt, hm h], fun h => ⟨fun p => by simp [State.portAt, hp h], (hp h).2⟩, hd, hh,
    hc⟩

/-- A frame composes: what neither part writes is unchanged by both. -/
theorem Framed.trans {v w : List Part} {s t u : State} (h : Framed v s t) (h' : Framed w t u) : Framed (v ++ w) s u := by
  obtain ⟨a1, a2, a3, a4, a5, a6, a7, a8, a9, a10, a11, a12, a13⟩ := h
  obtain ⟨b1, b2, b3, b4, b5, b6, b7, b8, b9, b10, b11, b12, b13⟩ := h'
  refine ⟨fun r m => ?_, fun r m => ?_, fun f m => ?_, fun m => ?_, fun m a => ?_, fun m => ⟨fun p => ?_, ?_⟩, fun m => ?_,
    fun m => ?_, b9.trans a9, b10.trans a10, b11.trans a11, b12.trans a12, b13.trans a13⟩ <;>
    simp only [List.mem_append, not_or] at m
  · exact (b1 r m.2).trans (a1 r m.1)
  · exact (b2 r m.2).trans (a2 r m.1)
  · exact (b3 f m.2).trans (a3 f m.1)
  · exact (b4 m.2).trans (a4 m.1)
  · exact (b5 m.2 a).trans (a5 m.1 a)
  · exact ((b6 m.2).1 p).trans ((a6 m.1).1 p)
  · exact (b6 m.2).2.trans (a6 m.1).2
  · exact (b7 m.2).trans (a7 m.1)
  · exact (b8 m.2).trans (a8 m.1)

end Sys2Proof.Safety
end

