-- ==== Sys2Proof/Laws/PerInstr.lean ====
section
/-! SUPPORT. Statements made per instruction. EncodedLength: the encoder writes as many bytes as the length table says, one to
five (spec/30_encoding.md R70, R83). -/

namespace Sys2Proof.Laws.EncodedLength

def Statement (i : Instr) : Prop := (encode i).length = i.length ∧ 1 ≤ i.length ∧ i.length ≤ 5

theorem RM.total_bounds {ρ : Type} (rm : RM ρ) : 1 ≤ rm.total ∧ rm.total ≤ 3 := by
  rcases rm with r | (d | b | ⟨b, d⟩ | ⟨b, d⟩) <;> simp [RM.total, EA.dispBytes]

/-- An instruction with a ModR/M byte: opcode, ModR/M byte, displacement. -/
theorem of_modrm {ρ : Type} (rm : RM ρ) (b m : Byte) :
    ((.byte b :: .byte m :: rm.dispPieces).flatMap Piece.bytes).length = 1 + rm.total ∧ 1 ≤ 1 + rm.total ∧
      1 + rm.total ≤ 5 := by
  have h := rm.dispPieces_length
  have hb := RM.total_bounds rm
  simp only [List.flatMap_cons, List.length_append, Piece.bytes, List.length_cons, List.length_nil]
  omega

theorem segEs : Statement (.segEs) := ⟨rfl, by simp [Instr.length], by simp [Instr.length]⟩

theorem segCs : Statement (.segCs) := ⟨rfl, by simp [Instr.length], by simp [Instr.length]⟩

theorem segSs : Statement (.segSs) := ⟨rfl, by simp [Instr.length], by simp [Instr.length]⟩

theorem cmpAlImm8 (imm : Byte) : Statement (.cmpAlImm8 imm) := ⟨rfl, by simp [Instr.length], by simp [Instr.length]⟩

theorem segDs : Statement (.segDs) := ⟨rfl, by simp [Instr.length], by simp [Instr.length]⟩

theorem jzRel8 (rel : Byte) : Statement (.jzRel8 rel) := ⟨rfl, by simp [Instr.length], by simp [Instr.length]⟩

theorem jnzRel8 (rel : Byte) : Statement (.jnzRel8 rel) := ⟨rfl, by simp [Instr.length], by simp [Instr.length]⟩

theorem xchgRm16R16 (rm : RM Reg16) (r : Reg16) : Statement (.xchgRm16R16 rm r) := of_modrm rm _ _

theorem movR8Rm8 (r : Reg8) (rm : RM Reg8) : Statement (.movR8Rm8 r rm) := of_modrm rm _ _

theorem movR16Rm16 (r : Reg16) (rm : RM Reg16) : Statement (.movR16Rm16 r rm) := of_modrm rm _ _

theorem movRm16Sreg (rm : RM Reg16) (field : BitVec 3) : Statement (.movRm16Sreg rm field) := of_modrm rm _ _

theorem movSregRm16 (field : BitVec 3) (rm : RM Reg16) : Statement (.movSregRm16 field rm) := of_modrm rm _ _

theorem nop : Statement (.nop) := ⟨rfl, by simp [Instr.length], by simp [Instr.length]⟩

theorem movAlDisp8 (disp : Byte) : Statement (.movAlDisp8 disp) := ⟨rfl, by simp [Instr.length], by simp [Instr.length]⟩

theorem movAxDisp16 (disp : Word) : Statement (.movAxDisp16 disp) := ⟨rfl, by simp [Instr.length], by simp [Instr.length]⟩

theorem movDisp8Al (disp : Byte) : Statement (.movDisp8Al disp) := ⟨rfl, by simp [Instr.length], by simp [Instr.length]⟩

theorem movDisp16Ax (disp : Word) : Statement (.movDisp16Ax disp) := ⟨rfl, by simp [Instr.length], by simp [Instr.length]⟩

theorem testAlImm8 (imm : Byte) : Statement (.testAlImm8 imm) := ⟨rfl, by simp [Instr.length], by simp [Instr.length]⟩

theorem movR8Imm8 (r : Reg8) (imm : Byte) : Statement (.movR8Imm8 r imm) := ⟨rfl, by simp [Instr.length], by simp [Instr.length]⟩

theorem movR16Imm16 (r : Reg16) (imm : Word) : Statement (.movR16Imm16 r imm) := ⟨rfl, by simp [Instr.length], by simp [Instr.length]⟩

theorem jcxzRel8 (rel : Byte) : Statement (.jcxzRel8 rel) := ⟨rfl, by simp [Instr.length], by simp [Instr.length]⟩

theorem inAlImm8 (imm : Byte) : Statement (.inAlImm8 imm) := ⟨rfl, by simp [Instr.length], by simp [Instr.length]⟩

theorem inAxImm8 (imm : Byte) : Statement (.inAxImm8 imm) := ⟨rfl, by simp [Instr.length], by simp [Instr.length]⟩

theorem outImm8Al (imm : Byte) : Statement (.outImm8Al imm) := ⟨rfl, by simp [Instr.length], by simp [Instr.length]⟩

theorem outImm8Ax (imm : Byte) : Statement (.outImm8Ax imm) := ⟨rfl, by simp [Instr.length], by simp [Instr.length]⟩

theorem jmpRel16 (rel : Word) : Statement (.jmpRel16 rel) := ⟨rfl, by simp [Instr.length], by simp [Instr.length]⟩

theorem jmpFar (off seg : Word) : Statement (.jmpFar off seg) := ⟨rfl, by simp [Instr.length], by simp [Instr.length]⟩

theorem inAlDx : Statement (.inAlDx) := ⟨rfl, by simp [Instr.length], by simp [Instr.length]⟩

theorem inAxDx : Statement (.inAxDx) := ⟨rfl, by simp [Instr.length], by simp [Instr.length]⟩

theorem outDxAl : Statement (.outDxAl) := ⟨rfl, by simp [Instr.length], by simp [Instr.length]⟩

theorem outDxAx : Statement (.outDxAx) := ⟨rfl, by simp [Instr.length], by simp [Instr.length]⟩

theorem cli : Statement (.cli) := ⟨rfl, by simp [Instr.length], by simp [Instr.length]⟩

theorem cld : Statement (.cld) := ⟨rfl, by simp [Instr.length], by simp [Instr.length]⟩

end Sys2Proof.Laws.EncodedLength
end

