-- ==== Sys2Proof/Tests/Slice0.lean ====
section
/-! SUPPORT. Tests. Expected results are those of spec/95_test_vectors.md, whose identifiers the comments name; words are written
from spec/30_encoding.md. The witnesses meet the hypotheses of the obligations of the same name. -/

namespace Sys2Proof.Tests

open Sys2Proof.Machine Sys2Proof.Safety

/-! ## Helpers -/

/-- Bytes stored from a linear address on. -/
def put (s : State) (a : Linear) : List Byte → State
  | [] => s
  | b :: bs => put (s.setByteAt a b) (a + 1) bs

/-- A constructed core with these registers and bytes at its CS:IP. -/
def boot (regs : RegFile) (bytes : List Byte) : State :=
  let s := State.construct Config.Params.vectors regs [] []
  put s s.curAddr bytes

/-- The register file the vectors start from: zero, CS:IP = 0000:0100. -/
def r0 : RegFile := { RegFile.zero with ip := 0x0100 }

/-- One view of the next state, none when there is no next state. -/
def after {α : Type} (o : Host.Outcome State Fault Refusal) (f : State → α) : Option α :=
  match o with
  | .next t => some (f t)
  | .fault _ => none
  | .refused _ => none

/-- Every flag set. -/
def allFlags : Flags :=
  { cF := true, pF := true, aF := true, zF := true, sF := true, tF := true, iF := true, dF := true, oF := true }

/-! ## Well-formedness: the one ill-formed shape, under each instruction that could carry it -/

theorem test_wf_refuses_bp_alone :
    Instr.wf (.xchgRm16R16 (.mem (.based .bp)) .ax) = false ∧ Instr.wf (.movR8Rm8 .al (.mem (.based .bp))) = false ∧
    Instr.wf (.movR16Rm16 .ax (.mem (.based .bp))) = false ∧ Instr.wf (.movRm16Sreg (.mem (.based .bp)) 0) = false ∧
    Instr.wf (.movSregRm16 0 (.mem (.based .bp))) = false := by decide

theorem test_wf_accepts_the_other_forms :
    Instr.wf (.movR16Rm16 .ax (.mem (.based .bpDi))) = true ∧ Instr.wf (.movR16Rm16 .ax (.mem (.disp8 .bp 0))) = true ∧
    Instr.wf (.movR16Rm16 .ax (.mem (.direct 0))) = true ∧ Instr.wf (.movSregRm16 7 (.reg .sp)) = true := by decide

/-! ## Decoding: the bits of spec/30_encoding.md, at least one word for each row -/

theorem test_decode_overrides :
    decodeBytes [0b00100110] = .ok (.segEs, []) ∧ decodeBytes [0b00101110] = .ok (.segCs, []) ∧
    decodeBytes [0b00110110] = .ok (.segSs, []) ∧ decodeBytes [0b00111110] = .ok (.segDs, []) := ⟨rfl, rfl, rfl, rfl⟩

theorem test_decode_alu_and_flags :
    decodeBytes [0b00111100, 0x05] = .ok (.cmpAlImm8 0x05, []) ∧ decodeBytes [0b10101000, 0x02] = .ok (.testAlImm8 0x02, []) ∧
    decodeBytes [0b11111010] = .ok (.cli, []) ∧ decodeBytes [0b11111100] = .ok (.cld, []) := ⟨rfl, rfl, rfl, rfl⟩

theorem test_decode_jumps :
    decodeBytes [0b01110100, 0xFE] = .ok (.jzRel8 0xFE, []) ∧ decodeBytes [0b01110101, 0xFA] = .ok (.jnzRel8 0xFA, []) ∧
    decodeBytes [0b11100011, 0x03] = .ok (.jcxzRel8 0x03, []) ∧
    decodeBytes [0b11101001, 0x03, 0x01] = .ok (.jmpRel16 0x0103, []) ∧
    decodeBytes [0b11101010, 0x00, 0x10, 0x34, 0x20, 0x77] = .ok (.jmpFar 0x1000 0x2034, [0x77]) := ⟨rfl, rfl, rfl, rfl, rfl⟩

/-- `8B 46 FE` is `01 000 110`, `8A DC` is `11 011 100`, `8C 05` is `00 000 101`, `8E 14` is `00 010 100`, `8B 80` is
`10 000 000`, `8A 26` is `00 100 110` (sections 2.2 and 2.3). -/
theorem test_decode_modrm_moves :
    decodeBytes [0b10001011, 0b01000110, 0xFE] = .ok (.movR16Rm16 .ax (.mem (.disp8 .bp 0xFE)), []) ∧
    decodeBytes [0b10001011, 0b10000000, 0x00, 0x80] = .ok (.movR16Rm16 .ax (.mem (.disp16 .bxSi 0x8000)), []) ∧
    decodeBytes [0b10001010, 0b11011100] = .ok (.movR8Rm8 .bl (.reg .ah), []) ∧
    decodeBytes [0b10001010, 0b00100110, 0x00, 0x01] = .ok (.movR8Rm8 .ah (.mem (.direct 0x0100)), []) ∧
    decodeBytes [0b10001100, 0b00000101] = .ok (.movRm16Sreg (.mem (.based .di)) 0, []) ∧
    decodeBytes [0b10001110, 0b00010100] = .ok (.movSregRm16 2 (.mem (.based .si)), []) ∧
    decodeBytes [0b10001110, 0b11100000] = .ok (.movSregRm16 4 (.reg .ax), []) := ⟨rfl, rfl, rfl, rfl, rfl, rfl, rfl⟩

theorem test_decode_other_moves :
    decodeBytes [0b10100000, 0xFF] = .ok (.movAlDisp8 0xFF, []) ∧
    decodeBytes [0b10100001, 0x34, 0x12] = .ok (.movAxDisp16 0x1234, []) ∧
    decodeBytes [0b10100010, 0x20] = .ok (.movDisp8Al 0x20, []) ∧
    decodeBytes [0b10100011, 0x0F, 0x00] = .ok (.movDisp16Ax 0x000F, []) ∧
    decodeBytes [0b10110100, 0x12] = .ok (.movR8Imm8 .ah 0x12, []) ∧
    decodeBytes [0b10111011, 0x34, 0x12] = .ok (.movR16Imm16 .bx 0x1234, []) := ⟨rfl, rfl, rfl, rfl, rfl, rfl⟩

theorem test_decode_ports :
    decodeBytes [0b11100100, 0xFF] = .ok (.inAlImm8 0xFF, []) ∧ decodeBytes [0b11100101, 0xFF] = .ok (.inAxImm8 0xFF, []) ∧
    decodeBytes [0b11100110, 0x61] = .ok (.outImm8Al 0x61, []) ∧ decodeBytes [0b11100111, 0x80] = .ok (.outImm8Ax 0x80, []) ∧
    decodeBytes [0b11101100] = .ok (.inAlDx, []) ∧ decodeBytes [0b11101101] = .ok (.inAxDx, []) ∧
    decodeBytes [0b11101110] = .ok (.outDxAl, []) ∧ decodeBytes [0b11101111] = .ok (.outDxAx, []) :=
  ⟨rfl, rfl, rfl, rfl, rfl, rfl, rfl, rfl⟩

/-- `87 D8` is `11 011 000`: reg = BX, rm = AX (scenario S8). -/
theorem test_decode_exchange :
    decodeBytes [0b10000111, 0b11011000] = .ok (.xchgRm16R16 (.reg .ax) .bx, []) ∧ decodeBytes [0b10010000] = .ok (.nop, []) :=
  ⟨rfl, rfl⟩

theorem test_decode_rejects :
    decodeBytes [0xF4] = .error (.unmappedOpcode 0xF4) ∧ decodeBytes [0x89, 0xC0] = .error (.unmappedOpcode 0x89) ∧
    decodeBytes [0xEA, 0x00] = .error .truncated ∧ decodeBytes [] = .error .truncated := ⟨rfl, rfl, rfl, rfl⟩

/-! ## Steps -/

/-- V2.8.1, first step. -/
theorem test_seg_es :
    after (step (boot { r0 with es := 0x5000, ip := 0x0300 } [0x26])) (fun t => (t.ovr, t.ip, t.lastExec)) =
      some ({ enable := true, selector := 0x5000 }, 0x0301, some 0x00300) := by decide

/-- V2.8.4: `2E`, then `A0 10` read through it. -/
theorem test_seg_cs :
    after (step (boot { r0 with cs := 0xF000, ip := 0x0200 } [0x2E])) (fun t => (t.ovr, t.ip)) =
      some ({ enable := true, selector := 0xF000 }, 0x0201) := by decide

/-- V2.8.2, second step: the last override wins. -/
theorem test_seg_ss :
    after (step { boot { r0 with es := 0x5000, ss := 0x4000 } [0x36] with ovr := { enable := true, selector := 0x5000 } })
      (fun t => (t.ovr, t.ip)) = some ({ enable := true, selector := 0x4000 }, 0x0101) := by decide

/-- V2.8.6, first step. -/
theorem test_seg_ds :
    after (step (boot { r0 with ds := 0x3000 } [0x3E])) (fun t => (t.ovr, t.ip)) =
      some ({ enable := true, selector := 0x3000 }, 0x0101) := by decide

/-- V2.8.6, second step: the override replaces the SS default, and ends. -/
theorem test_override_replaces_ss :
    after (step { put (put (boot { r0 with ds := 0x3000, ss := 0x4000, bp := 0x0010 } [0x8A, 0x46, 0x00]) 0x30010 [0x22])
        0x40010 [0x33] with ovr := { enable := true, selector := 0x3000 } })
      (fun t => (t.r8 .al, t.ovr.enable)) = some (0x22, false) := by decide

/-- V2.7.3. -/
theorem test_cmp_overflow :
    after (step (boot { r0 with ax := 0xAA80 } [0x3C, 0x01])) (fun t => (t.flags, t.r16 .ax, t.ip)) =
      some ({ cF := false, pF := false, aF := true, zF := false, sF := false, tF := false, iF := false, dF := false,
              oF := true }, 0xAA80, 0x0102) := by decide

/-- V2.7.12. -/
theorem test_cmp_borrow :
    after (step (boot { r0 with ax := 0xAA7F } [0x3C, 0x80])) (fun t => t.flags) =
      some { cF := true, pF := true, aF := false, zF := false, sF := true, tF := false, iF := false, dF := false,
             oF := true } := by decide

/-- V2.7.14, every flag set at the start; AF is not read. -/
theorem test_test_sign :
    after (step (boot { r0 with ax := 0x12FF, flags := allFlags } [0xA8, 0x80]))
      (fun t => ([t.flags.sF, t.flags.zF, t.flags.pF, t.flags.cF, t.flags.oF], t.r16 .ax, t.ip)) =
      some ([true, false, false, false, false], 0x12FF, 0x0102) := by decide

/-- V2.7.15. -/
theorem test_test_zero :
    after (step (boot { r0 with ax := 0x120F } [0xA8, 0xF0])) (fun t => (t.flags.sF, t.flags.zF, t.flags.pF)) =
      some (false, true, true) := by decide

/-- V2.4.4. -/
theorem test_jz_backward_wraps :
    after (step (boot { RegFile.zero with ip := 0x0010, flags := allFlags } [0x74, 0x80])) (fun t => t.ip) = some 0xFF92 := by
  decide

/-- V2.4.5. -/
theorem test_jz_not_taken : after (step (boot r0 [0x74, 0xFE])) (fun t => t.ip) = some 0x0102 := by decide

/-- V2.4.6, both halves. -/
theorem test_jnz :
    after (step (boot r0 [0x75, 0x05])) (fun t => t.ip) = some 0x0107 ∧
    after (step (boot { r0 with flags := allFlags } [0x75, 0x05])) (fun t => t.ip) = some 0x0102 := by decide

/-- V2.4.7, both halves: all 16 bits of CX. -/
theorem test_jcxz :
    after (step (boot r0 [0xE3, 0x10])) (fun t => t.ip) = some 0x0112 ∧
    after (step (boot { r0 with cx := 0x0100 } [0xE3, 0x10])) (fun t => t.ip) = some 0x0102 := by decide

/-- V2.4.1. -/
theorem test_jmp_near_wraps :
    after (step (boot { r0 with cs := 0x1000, ip := 0xFFFE } [0xE9])) (fun t => (t.seg .cs, t.ip)) = some (0x1000, 0x0001) := by
  decide

/-- V2.4.2. -/
theorem test_jmp_near_backward : after (step (boot r0 [0xE9, 0xFE, 0xFE])) (fun t => t.ip) = some 0x0001 := by decide

/-- Scenario S3, from the reset state. -/
theorem test_jmp_far :
    after (step (put State.reset 0xFFFF0 [0xEA, 0x00, 0x10, 0x00, 0x20])) (fun t => (t.seg .cs, t.ip, t.curAddr)) =
      some (0x2000, 0x1000, 0x21000) := by decide

/-- V2.4.10: the offset is one word read at linear 1FFFF, the segment is at offset 0001. -/
theorem test_jmp_far_wraps :
    after (step (put (put (put (boot { r0 with cs := 0x1000, ip := 0xFFFE } [0xEA]) 0x1FFFF [0x34]) 0x20000 [0x12]) 0x10001
      [0x00, 0x50])) (fun t => (t.seg .cs, t.ip)) = some (0x5000, 0x1234) := by decide

/-- V2.6.3: one effective address from the old BX. -/
theorem test_xchg_memory :
    after (step (put (boot { r0 with ds := 0x3000, bx := 0x0010 } [0x87, 0x1F]) 0x30010 [0x78, 0x56]))
      (fun t => (t.r16 .bx, t.byteAt 0x30010, t.byteAt 0x30011, t.byteAt 0x35678, t.ip)) =
      some (0x5678, 0x10, 0x00, 0x00, 0x0102) := by decide

/-- V2.6.1. -/
theorem test_xchg_registers :
    after (step (boot { r0 with sp := 0x1111, di := 0x2222 } [0x87, 0xFC])) (fun t => (t.r16 .sp, t.r16 .di)) =
      some (0x2222, 0x1111) := by decide

/-- V2.2.4. -/
theorem test_mov_r8_rm8_memory :
    after (step (put (boot { r0 with ds := 0x3000, bx := 0xFFFF, si := 0x0002 } [0x8A, 0x40, 0xFF]) 0x30000 [0x5A]))
      (fun t => (t.r16 .ax, t.ip)) = some (0x005A, 0x0103) := by decide

/-- V2.2.8. -/
theorem test_mov_r8_rm8_register :
    after (step (boot { r0 with ax := 0x1234, bx := 0xFFFF } [0x8A, 0xDC])) (fun t => (t.r16 .bx, t.ip)) =
      some (0xFF12, 0x0102) := by decide

/-- V2.2.1: the high byte comes from the next linear address. -/
theorem test_mov_r16_rm16_crosses :
    after (step (put (put (boot { r0 with bp := 0x0001, ss := 0x4000 } [0x8B, 0x46, 0xFE]) 0x4FFFF [0x34, 0x12]) 0x40000
      [0x99])) (fun t => (t.r16 .ax, t.ip)) = some (0x1234, 0x0103) := by decide

/-- V2.2.9: the address is that of the old BX. -/
theorem test_mov_r16_rm16_own_base :
    after (step (put (boot { r0 with ds := 0x1000, bx := 0x0010 } [0x8B, 0x1F]) 0x10010 [0x20, 0x00]))
      (fun t => (t.r16 .bx, t.ip)) = some (0x0020, 0x0102) := by decide

/-- V2.3.9. -/
theorem test_mov_rm16_sreg :
    after (step (boot { r0 with es := 0x1111, ds := 0x3000, di := 0x0040 } [0x8C, 0x05]))
      (fun t => (t.wordAt 0x30040, t.ip)) = some (0x1111, 0x0102) := by decide

/-- V2.3.15. -/
theorem test_mov_rm16_sreg_fatal :
    after (step (boot r0 [0x8C, 0xF8])) (fun t => (t.isRunning, t.r16 .ax, t.ip, t.lastExec)) =
      some (false, 0x0000, 0x0100, none) := by decide

/-- V2.3.13: MOV CS. -/
theorem test_mov_sreg_cs :
    after (step (boot { r0 with cs := 0x2000, ax := 0x3000 } [0x8E, 0xC8]))
      (fun t => (t.seg .cs, t.ip, t.lastExec, t.curAddr)) = some (0x3000, 0x0102, some 0x20100, 0x30102) := by decide

/-- V2.3.14. -/
theorem test_mov_sreg_fatal :
    after (step (boot { r0 with ax := 0x3000 } [0x8E, 0xE0])) (fun t => t.halt) =
      some (.halted { kind := .unrecognizedSubencoding, cs := 0x0000, ip := 0x0100, linear := 0x00100, opcode := 0x8E,
                      modrm := some 0xE0, snapshot := { r0 with ax := 0x3000 } }) := by decide

/-- V2.6.5, and V2.8.3: a NOP ends an override. -/
theorem test_nop :
    after (step { boot { r0 with flags := allFlags } [0x90] with ovr := { enable := true, selector := 0x5000 } })
      (fun t => (t.regs, t.ovr.enable)) = some ({ r0 with flags := allFlags, ip := 0x0101 }, false) := by decide

/-- V2.3.1. -/
theorem test_mov_al_disp8 :
    after (step (put (boot { r0 with ds := 0x3000, ax := 0xEE00 } [0xA0, 0xFF]) 0x300FF [0x77])) (fun t => (t.r16 .ax, t.ip)) =
      some (0xEE77, 0x0102) := by decide

/-- V2.3.2. -/
theorem test_mov_ax_disp16 :
    after (step (put (boot { r0 with ds := 0xFFFF } [0xA1, 0xFF, 0xFF]) 0x0FFEF [0xCD, 0xAB])) (fun t => (t.r16 .ax, t.ip)) =
      some (0xABCD, 0x0103) := by decide

/-- V2.3.3. -/
theorem test_mov_disp8_al :
    after (step (put (boot { r0 with ds := 0x3000, ax := 0x125A } [0xA2, 0x20]) 0x30021 [0x77]))
      (fun t => (t.byteAt 0x30020, t.byteAt 0x30021, t.ip)) = some (0x5A, 0x77, 0x0102) := by decide

/-- V2.3.4. -/
theorem test_mov_disp16_ax_wraps :
    after (step (boot { r0 with ds := 0xFFFF, ax := 0xBEEF } [0xA3, 0x0F, 0x00]))
      (fun t => (t.byteAt 0xFFFFF, t.byteAt 0x00000, t.ip)) = some (0xEF, 0xBE, 0x0103) := by decide

/-- V2.3.5 and V2.3.6. -/
theorem test_mov_r8_imm8 :
    after (step (boot { r0 with ax := 0xFF34 } [0xB4, 0x12])) (fun t => (t.r16 .ax, t.ip)) = some (0x1234, 0x0102) ∧
    after (step (boot { r0 with bx := 0x1234 } [0xB7, 0x99])) (fun t => t.r16 .bx) = some 0x9934 := by decide

/-- V2.3.7. -/
theorem test_mov_r16_imm16 :
    after (step (boot r0 [0xBC, 0x00, 0x7C])) (fun t => (t.r16 .sp, t.ip)) = some (0x7C00, 0x0103) := by decide

/-- V2.5.1. -/
theorem test_in_al_imm8 :
    after (step (((boot { r0 with ax := 0xAA00 } [0xE4, 0xFF]).setPortAt 0x00FF 0x7E).setPortAt 0xFFFF 0x11))
      (fun t => (t.r16 .ax, t.ip, t.portEvents)) = some (0xAA7E, 0x0102, [.read8 0x00FF 0x7E]) := by decide

/-- V2.5.2. -/
theorem test_in_ax_imm8 :
    after (step (((boot r0 [0xE5, 0xFF]).setPortAt 0x00FF 0x34).setPortAt 0x0100 0x12))
      (fun t => (t.r16 .ax, t.ip)) = some (0x1234, 0x0102) := by decide

/-- V2.5.3. -/
theorem test_in_al_dx :
    after (step ((boot { r0 with ax := 0xFF00, dx := 0x1234 } [0xEC]).setPortAt 0x1234 0x5A)) (fun t => (t.r16 .ax, t.ip)) =
      some (0xFF5A, 0x0101) := by decide

/-- V2.5.4. -/
theorem test_in_ax_dx_wraps :
    after (step (((boot { r0 with dx := 0xFFFF } [0xED]).setPortAt 0xFFFF 0xCD).setPortAt 0x0000 0xAB))
      (fun t => (t.r16 .ax, t.ip)) = some (0xABCD, 0x0101) := by decide

/-- V2.5.5. -/
theorem test_out_imm8_al :
    after (step (boot { r0 with ax := 0x12A5 } [0xE6, 0x61])) (fun t => (t.portAt 0x0061, t.portAt 0x0062, t.portEvents, t.ip)) =
      some (0xA5, 0x00, [.write8 0x0061 0xA5], 0x0102) := by decide

/-- V2.5.6. -/
theorem test_out_imm8_ax :
    after (step (boot { r0 with ax := 0xBEEF } [0xE7, 0x80])) (fun t => (t.portAt 0x0080, t.portAt 0x0081, t.ip)) =
      some (0xEF, 0xBE, 0x0102) := by decide

/-- V2.5.7. -/
theorem test_out_dx_al :
    after (step (boot { r0 with ax := 0x1241, dx := 0x03F8 } [0xEE])) (fun t => (t.portEvents, t.ip)) =
      some ([.write8 0x03F8 0x41], 0x0101) := by decide

/-- V2.5.8. -/
theorem test_out_dx_ax_wraps :
    after (step (boot { r0 with ax := 0xBEEF, dx := 0xFFFF } [0xEF])) (fun t => (t.portAt 0xFFFF, t.portAt 0x0000)) =
      some (0xEF, 0xBE) := by decide

/-- V2.7.21. -/
theorem test_cli :
    after (step (boot { r0 with flags := allFlags } [0xFA])) (fun t => (t.flags, t.ip)) =
      some ({ allFlags with iF := false }, 0x0101) := by decide

/-- V2.7.23. -/
theorem test_cld :
    after (step (boot { r0 with flags := allFlags } [0xFC])) (fun t => (t.flags, t.ip)) =
      some ({ allFlags with dF := false }, 0x0101) := by decide

/-! ## The driver, fatal conditions, reset, messages, fetching -/

/-- V2.9.1, second step: the opcode is not read again. -/
theorem test_watchdog :
    after (step { boot r0 [0xF4] with lastExec := some 0x00100, curOpcode := 0xE9 }) (fun t => t.halt) =
      some (.halted { kind := .ipNotAdvanced, cs := 0, ip := 0x0100, linear := 0x00100, opcode := 0xE9, modrm := none,
                      snapshot := r0 }) := by decide

/-- V2.9.3. -/
theorem test_unknown_opcode :
    after (step (boot r0 [0xF4])) (fun t => (t.halt, t.lastExec)) =
      some (.halted { kind := .unknownOpcode, cs := 0, ip := 0x0100, linear := 0x00100, opcode := 0xF4, modrm := none,
                      snapshot := r0 }, none) := by decide

/-- V2.10.1 and V2.10.2. -/
theorem test_reset :
    (State.reset.seg .cs, State.reset.ip, State.reset.mode, State.reset.cr0Pe, State.reset.lastExec, State.reset.outMsgs) =
      (0xF000, 0xFFF0, 0x00, false, none, [.globalLockBiosMemRegion]) := by decide

/-- V2.10.3, then V2.10.6: an unknown mode keeps PE. -/
theorem test_mode_switch :
    after (deliver Config.Params.vectors { name := .requestCpuModeswitch, payload := [0x01] } State.reset)
      (fun t => (t.mode, t.cr0Pe, t.outMsgs)) =
      some (0x01, true, [.globalLockBiosMemRegion, .globalCpuModeswitch 0x01]) ∧
    after (deliver Config.Params.vectors { name := .requestCpuModeswitch, payload := [0x7F] }
      { State.reset with mode := 0x01, cr0Pe := true }) (fun t => (t.mode, t.cr0Pe)) = some (0x7F, true) := by decide

/-- Scenario S1, placed where the reset state fetches; the far jump's five bytes there; the lowest byte is the first. -/
theorem test_fetch_word :
    after (step (State.reset.withFetchWord 16 0x2AB0)) (fun t => (t.r8 .al, t.ip)) = some (0x2A, 0xFFF2) ∧
    after (step (State.reset.withFetchWord 40 0x20001000EA)) (fun t => (t.seg .cs, t.ip)) = some (0x2000, 0x1000) := by decide

/-- A row whose operand bytes the table does not number, and an unmapped byte. -/
theorem test_table_word :
    decodeTableWord 8 0x3C = some (.cmpAlImm8 0) ∧ decodeTableWord 16 0xD887 = some (.xchgRm16R16 (.reg .ax) .bx) ∧
    decodeTableWord 8 0xF4 = none := by decide

/-- V2.1.1 to V2.1.3. -/
theorem test_linear : addr 0xF000 0xFFF0 = 0xFFFF0 ∧ addr 0xFFFF 0x0010 = 0x00000 ∧ addr 0xFFFF 0xFFFF = 0x0FFEF := by decide

/-- Bits 0, 2, 4, 6 to 11 of the flags word; reserved bits come from outside. -/
theorem test_flags_word : allFlags.toWord 0 = 0x0FD5 ∧ RegFile.zero.flags.toWord 0xFFFF = 0xF02A := by decide

/-! ## Witnesses: what meets the hypotheses of each obligation that has some, at the ends of each range -/

/-- A view with the given first bytes. -/
def view (bs : List Byte) : CodeView := CodeView.ofBytes bs

theorem witness_DecodeOfEncode :
    Instr.wf (.movR16Rm16 .di (.mem (.disp8 .bp 0x80))) = true ∧ Instr.wf (.movR8Rm8 .bh (.mem (.based .bx))) = true := by
  decide

theorem witness_EncodeOfDecode : decodeBytes [0xB7, 0xFF, 0x90] = .ok (.movR8Imm8 .bh 0xFF, [0x90]) := rfl

/-- The first and the last byte of each run of R79, and neighbours that are mapped. -/
theorem witness_MappedBytesAreThe47 :
    ([0x00, 0x25, 0x27, 0x2D, 0x2F, 0x35, 0x37, 0x3B, 0x3D, 0x3F, 0x73, 0x76, 0x86, 0x88, 0x89, 0x8D, 0x8F, 0x91, 0x9F, 0xA4,
      0xA7, 0xA9, 0xAF, 0xC0, 0xE2, 0xE8, 0xEB, 0xF0, 0xF9, 0xFB, 0xFD, 0xFF].all fun b =>
        unmappedByte (view [b]).byte0.toNat) = true ∧
    ([0x26, 0x2E, 0x36, 0x3C, 0x3E, 0x74, 0x75, 0x87, 0x8A, 0x8C, 0x8E, 0x90, 0xA0, 0xA3, 0xA8, 0xB0, 0xBF, 0xE3, 0xE7, 0xE9,
      0xEA, 0xEC, 0xEF, 0xFA, 0xFC].all fun b => !unmappedByte (view [b]).byte0.toNat) = true := by decide

theorem witness_InstructionLengths : decode (view [0x8B, 0x06, 0x34, 0x12]) = .ok (.movR16Rm16 .ax (.mem (.direct 0x1234))) :=
  rfl

/-- The first and the last byte of each `mod`, `rm` 6 under `mod` 0 and its neighbours, an active override, none, a base with BP
and one without. -/
theorem witness_ModRmOperandForms :
    [0x00, 0x3F, 0x40, 0x7F, 0x80, 0xBF, 0xC0, 0xFF].map (fun m => (view [0x8A, m]).byte1.toNat / 64) =
      [0, 0, 1, 1, 2, 2, 3, 3] ∧
    [0x05, 0x06, 0x07, 0x02, 0x46].map (fun m => (view [0x8A, m]).byte1.toNat % 8) = [5, 6, 7, 2, 6] ∧
    State.reset.ovr.enable = false ∧ (State.reset.captureOverride .cs).ovr.enable = true := by decide

/-- ByteViewsAlias and the moves: another register. LittleEndianWords and PortWords: an address outside the two stored bytes, at
the wrap. -/
theorem witness_other_places :
    Reg8.al ≠ .ah ∧ Reg16.ax ≠ .di ∧ SReg.ds ≠ .cs ∧ (0x00001 : Linear) ≠ 0xFFFFF ∧ (0x00001 : Linear) ≠ 0xFFFFF + 1 ∧
      (0x0001 : Word) ≠ 0xFFFF ∧ (0x0001 : Word) ≠ 0xFFFF + 1 := by decide

theorem witness_CanonicalMemoryIsUnique :
    Memory.wf Config.memSize [(0, 1), (0xFFFFF, 0xFF)] = true ∧
    Memory.wf Config.memSize ((Memory.write [(0xFFFFF, 0xFF)] 0 0).write 0 1) = true ∧
    ((Memory.write [(0xFFFFF, 0xFF)] 0 0).write 0 1) = [(0, 1), (0xFFFFF, 0xFF)] := by decide

/-- The last place where five bytes fit below offset 0x10000. -/
theorem witness_StoredInstructionIsDecoded :
    let s := boot { r0 with ip := 0xFFFB } [0xEA, 0x00, 0x10, 0x00, 0x20]
    Instr.wf (.jmpFar 0x1000 0x2000) = true ∧ (∀ k < 5, s.fetch8 k = (encode (.jmpFar 0x1000 0x2000)).getD k 0) ∧
      (encode (.jmpFar 0x1000 0x2000)).length = 5 ∧ s.ip.toNat + (Instr.jmpFar 0x1000 0x2000).length ≤ 65536 := by decide

theorem witness_OverrideReplacesDefault :
    (State.reset.captureOverride .cs).ovr.enable = true ∧ State.reset.ovr.enable = false := by decide

/-- The primary byte of each statement about one instruction. -/
theorem witness_opcode_bytes :
    [view [0xA0], view [0xA1], view [0xA2], view [0xA3], view [0x8A], view [0x8B], view [0x8C], view [0x8E], view [0xEA],
      view [0xE9], view [0x74], view [0x75], view [0xE3], view [0xFA], view [0xFC], view [0x3C], view [0xA8], view [0xE4],
      view [0xE5], view [0xE6], view [0xE7], view [0xEC], view [0xED], view [0xEE], view [0xEF], view [0x87], view [0x90],
      view [0x26], view [0x2E], view [0x36], view [0x3E]].map (fun c => c.byte0) =
    [0xA0, 0xA1, 0xA2, 0xA3, 0x8A, 0x8B, 0x8C, 0x8E, 0xEA, 0xE9, 0x74, 0x75, 0xE3, 0xFA, 0xFC, 0x3C, 0xA8, 0xE4, 0xE5, 0xE6, 0xE7,
      0xEC, 0xED, 0xEE, 0xEF, 0x87, 0x90, 0x26, 0x2E, 0x36, 0x3E] := by decide

/-- Both ends of the two ranges of registers in the opcode. -/
theorem witness_MovImmediates :
    (view [0xB0]).byte0.toNat / 8 = 0x16 ∧ (view [0xB7]).byte0.toNat / 8 = 0x16 ∧ (view [0xB8]).byte0.toNat / 8 = 0x17 ∧
      (view [0xBF]).byte0.toNat / 8 = 0x17 := by decide

/-- The fields 0 and 3 of MovFromSegment and MovToSegment. -/
theorem witness_segment_fields : SReg.ofField 0 = some .es ∧ SReg.ofField 3 = some .ds := by decide

/-- The fields 4 and 7. -/
theorem witness_SegmentFieldFatal : 4 ≤ (4 : BitVec 3).toNat ∧ 4 ≤ (7 : BitVec 3).toNat := by decide

theorem witness_CmpOrdersItsOperands : (after (exec (.cmpAlImm8 0x80) State.reset) fun _ => ()) = some () := by decide

/-- IpAdvanceLaw: an instruction that is no jump, and each jump with its condition true and false. -/
theorem witness_IpAdvanceLaw :
    State.reset.halt = .running ∧ (after (exec .nop State.reset) fun t => t.halt) = some .running ∧ isJump .nop = false ∧
    (after (exec (.jzRel8 1) State.reset) fun t => t.halt) = some .running ∧ flag State.reset.flags .zf = false ∧
    (after (exec (.jnzRel8 1) State.reset) fun t => t.halt) = some .running ∧
    flag (boot { r0 with flags := allFlags } []).flags .zf = true ∧
    (after (exec (.jcxzRel8 1) State.reset) fun t => t.halt) = some .running ∧ State.reset.r16 .cx = 0 ∧
    (boot { r0 with cx := 0x0100 } []).r16 .cx ≠ 0 ∧ (after (exec (.jmpRel16 1) State.reset) fun t => t.halt) = some .running ∧
    (after (exec (.jmpFar 1 2) State.reset) fun t => t.halt) = some .running := by decide

/-- StoresOnlyWhereTheySay: beside a one-byte store, beside a two-byte store, and where nothing is stored. -/
theorem witness_StoresOnlyWhereTheySay :
    (after (exec (.movDisp8Al 0x20) State.reset) fun _ => ()) = some () ∧
    storesTo State.reset (.movDisp8Al 0x20) = some (0x00020, 1) ∧ (0x00021 : Linear) ≠ 0x00020 ∧
    storesTo State.reset (.movDisp16Ax 0xFFFF) = some (0x0FFFF, 2) ∧ (0x10001 : Linear) ≠ 0x0FFFF ∧
    (0x10001 : Linear) ≠ 0x0FFFF + 1 ∧ storesTo State.reset .nop = none := by decide

/-- PortAccessesOnceEach: an instruction with a read, one with none. -/
theorem witness_PortAccessesOnceEach :
    (after (exec (.inAlImm8 0xFF) State.reset) fun _ => ()) = some () ∧
    portAccess State.reset (.inAlImm8 0xFF) = some (.read8 0x00FF 0) ∧ portAccess State.reset .nop = none := by decide

theorem witness_RegisterFormsIgnoreMemory :
    accessesMemory (.xchgRm16R16 (.reg .ax) .bx) = false ∧ accessesMemory (.movSregRm16 7 (.reg .ax)) = false := by decide

/-- StepRunsDecodedInstruction: a NOP, which runs on; a fatal field, which halts. -/
theorem witness_StepRunsDecodedInstruction :
    (boot r0 [0x90]).halt = .running ∧ (boot r0 [0x90]).lastExec ≠ some (boot r0 [0x90]).curAddr ∧
    decode (boot r0 [0x90]).codeView = .ok .nop ∧
    (after (exec (.movSregRm16 4 (.reg .ax)) State.reset) fun t => t.isRunning) = some false ∧
    (after (exec .nop State.reset) fun t => t.isRunning) = some true := ⟨rfl, by decide, rfl, by decide, by decide⟩

/-- FatalConditionsInOrder: all three conditions, and none; an unmapped byte at the address last executed. -/
theorem witness_FatalConditionsInOrder :
    (fun s : State => s.halt = .running ∧ s.lastExec = some s.curAddr ∧ unmappedByte (s.byteAt s.curAddr).toNat = true)
      { boot r0 [0xF4] with lastExec := some 0x00100 } ∧
    (fun s : State => s.lastExec ≠ some s.curAddr ∧ unmappedByte (s.byteAt s.curAddr).toNat = true) (boot r0 [0xF4]) ∧
    (fun s : State => s.byteAt s.curAddr = 0x8C ∧ 4 ≤ (s.fetch8 1).toNat / 8 % 8) (boot r0 [0x8C, 0xE0]) ∧
    (fun s : State => s.byteAt s.curAddr = 0x8E ∧ ¬4 ≤ (s.fetch8 1).toNat / 8 % 8) (boot r0 [0x8E, 0xD8]) := by decide

/-- FatalStepWritesNothing: a step that halts, for each of the three kinds. -/
theorem witness_FatalStepWritesNothing :
    let kindOf := fun t : State =>
      match t.halt with
      | .running => none
      | .halted r => some r.kind
    after (step { boot r0 [0x90] with lastExec := some 0x00100 }) kindOf = some (some .ipNotAdvanced) ∧
    after (step (boot r0 [0x0F])) kindOf = some (some .unknownOpcode) ∧
    after (step (boot r0 [0x8E, 0xF8])) kindOf = some (some .unrecognizedSubencoding) := by decide

theorem witness_UnmappedByteHalts :
    let s := boot r0 [0x00]
    s.halt = .running ∧ s.lastExec ≠ some s.curAddr ∧ unmappedByte (s.byteAt s.curAddr).toNat = true := by decide

/-- A halted core, and an event that it lets happen. -/
theorem witness_HaltedCoreIsStuck :
    let r : HaltRecord := { kind := .unknownOpcode, cs := 0, ip := 0x0100, linear := 0x00100, opcode := 0xF4, modrm := none,
                            snapshot := r0 }
    let s : State := { boot r0 [0xF4] with halt := .halted r }
    s.halt = .halted r ∧ (after (event Config.Params.vectors (.writeMem 0 1) s) fun _ => ()) = some () := by decide

/-- OverrideLastsOneInstruction: each override byte and a byte that is none, in steps that run on. -/
theorem witness_OverrideLastsOneInstruction :
    [0x26, 0x2E, 0x36, 0x3E, 0x90].map (fun b => after (step (boot r0 [b])) fun t => t.halt) =
      [some .running, some .running, some .running, some .running, some .running] ∧
    (0x90 : Byte) ∉ [(0x26 : Byte), 0x2E, 0x36, 0x3E] := by decide

/-- WatchdogTripsOnlyAfterJump and JumpToSelfHalts: `E9 FD FF`, then a halt (V2.9.1). -/
theorem witness_WatchdogTripsOnlyAfterJump :
    (after (step (boot r0 [0xE9, 0xFD, 0xFF])) fun t =>
      (t.halt, after (step t) fun u =>
        match u.halt with
        | .running => none
        | .halted r => some r.kind)) = some (.running, some (some .ipNotAdvanced)) := by decide

/-- JumpToSelfHalts: each of the five forms from the vectors' start state, the far jump that of V2.4.9. -/
theorem witness_JumpToSelfHalts :
    (boot r0 []).halt = .running ∧ (boot r0 []).lastExec ≠ some (boot r0 []).curAddr ∧
    decode (boot r0 [0xE9, 0xFD, 0xFF]).codeView = .ok (.jmpRel16 0xFFFD) ∧
    decode (boot r0 [0x74, 0xFE]).codeView = .ok (.jzRel8 0xFE) ∧
    flag (boot { r0 with flags := allFlags } [0x74, 0xFE]).flags .zf = true ∧
    decode (boot r0 [0x75, 0xFE]).codeView = .ok (.jnzRel8 0xFE) ∧ flag (boot r0 [0x75, 0xFE]).flags .zf = false ∧
    decode (boot r0 [0xE3, 0xFE]).codeView = .ok (.jcxzRel8 0xFE) ∧ (boot r0 [0xE3, 0xFE]).r16 .cx = 0 ∧
    decode (boot r0 [0xEA, 0x00, 0x00, 0x10, 0x00]).codeView = .ok (.jmpFar 0x0000 0x0010) ∧
    addr 0x0010 0x0000 = (boot r0 [0xEA, 0x00, 0x00, 0x10, 0x00]).curAddr :=
  ⟨rfl, by decide, rfl, rfl, rfl, rfl, rfl, rfl, rfl, rfl, rfl⟩

/-- StepKeepsInvariant and StepNeverSwitchesMode: a step from a state with the invariant. -/
theorem witness_StepKeepsInvariant :
    inv (boot r0 [0xA2, 0x20]) = true ∧ (after (step (boot r0 [0xA2, 0x20])) fun _ => ()) = some () := by decide

/-- EnvironmentKeepsInvariant: each event but the step, from the reset state. -/
theorem witness_EnvironmentKeepsInvariant :
    inv State.reset = true ∧
    [Event.reset, .deliver { name := .requestCpuModeswitch, payload := [0x01] }, .writeMem 0xFFFFF 0xFF,
        .writePort 0xFFFF 0xFF].map (fun e => (e == .step, after (event Config.Params.vectors e State.reset) fun _ => ())) =
      [(false, some ()), (false, some ()), (false, some ()), (false, some ())] := by decide

theorem witness_ResetEntersResetVector : State.reset.halt = .running ∧ SReg.es ≠ .cs := by decide

theorem witness_ResetMeetsInvariant :
    Memory.wf Config.memSize [(0xFFFFF, 0xEA)] = true ∧ Memory.wf Config.portSize [(0xFFFF, 0x01)] = true := by decide

/-- ModeSwitchMessage: both known modes and another. -/
theorem witness_ModeSwitchMessage :
    Config.Params.vectors.wf = true ∧ State.reset.halt = .running ∧ (0x01 : Byte) = Config.Params.vectors.modeProtected ∧
    (0x00 : Byte) = Config.Params.vectors.modeReal ∧ (0x7F : Byte) ≠ Config.Params.vectors.modeProtected ∧
    (0x7F : Byte) ≠ Config.Params.vectors.modeReal := by decide

/-- OtherMessagesIgnored: another message, and requests with no byte and with two. -/
theorem witness_OtherMessagesIgnored :
    MsgName.other 7 ≠ .requestCpuModeswitch ∧ ([] : List Byte).length ≠ 1 ∧ ([0x01, 0x01] : List Byte).length ≠ 1 := by decide

end Sys2Proof.Tests
end

section
/-! SUPPORT. The canonical form of a byte array is unique (spec/10_state.md R22, log entry 3). -/

namespace Sys2Proof.Machine

theorem Memory.read_cons_same (k : Nat) (v : Byte) (m : Memory) : Memory.read ((k, v) :: m) k = v := by
  simp [Memory.read]

theorem Memory.read_cons_other {k a : Nat} (v : Byte) (m : Memory) (h : a ≠ k) :
    Memory.read ((k, v) :: m) a = Memory.read m a := by
  simp [Memory.read, h]

/-- The first address a canonical array lists tells it from every canonical array that lists higher addresses only. -/
theorem Memory.read_head_ne {size lo k : Nat} {v : Byte} {m m' : Memory}
    (h : Memory.wfFrom size lo ((k, v) :: m) = true) (h' : Memory.wfFrom size (k + 1) m' = true) :
    Memory.read ((k, v) :: m) k ≠ m'.read k := by
  obtain ⟨-, -, hv, -⟩ := Memory.wfFrom_cons.mp h
  rwa [Memory.read_cons_same, Memory.read_below m' h' (Nat.lt_succ_self k)]

/-- A canonical array is canonical from any bound up to the first address it lists. -/
theorem Memory.wfFrom_raise {size lo lo' k : Nat} {v : Byte} {m : Memory} (h : Memory.wfFrom size lo ((k, v) :: m) = true)
    (hk : lo' ≤ k) : Memory.wfFrom size lo' ((k, v) :: m) = true := by
  obtain ⟨-, htail⟩ := Memory.wfFrom_cons.mp h
  exact Memory.wfFrom_cons.mpr ⟨hk, htail⟩

/-- Canonical arrays that read alike below their size list the same bytes. -/
theorem Memory.eq_of_read_eq {size lo lo' : Nat} {m m' : Memory} (h : Memory.wfFrom size lo m = true)
    (h' : Memory.wfFrom size lo' m' = true) (hread : ∀ a, a < size → m.read a = m'.read a) : m = m' := by
  induction m generalizing lo lo' m' with
  | nil =>
    rcases m' with _ | ⟨⟨k', v'⟩, m'⟩
    · rfl
    · obtain ⟨-, hk', -, -⟩ := Memory.wfFrom_cons.mp h'
      exact absurd (hread k' hk').symm (Memory.read_head_ne h' rfl)
  | cons c m ih =>
    obtain ⟨k, v⟩ := c
    obtain ⟨-, hk, -, hm⟩ := Memory.wfFrom_cons.mp h
    rcases m' with _ | ⟨⟨k', v'⟩, m'⟩
    · exact absurd (hread k hk) (Memory.read_head_ne h rfl)
    obtain ⟨-, hk', -, hm'⟩ := Memory.wfFrom_cons.mp h'
    rcases Nat.lt_trichotomy k k' with hlt | rfl | hlt
    · exact absurd (hread k hk) (Memory.read_head_ne h (Memory.wfFrom_raise h' hlt))
    · have hv : v = v' := by simpa only [Memory.read_cons_same] using hread k hk
      have htail : ∀ a, a < size → Memory.read m a = Memory.read m' a := by
        intro a ha
        rcases Nat.lt_or_ge k a with hka | hak
        · have hne : a ≠ k := by omega
          simpa only [Memory.read_cons_other _ _ hne] using hread a ha
        · rw [Memory.read_below m hm (by omega), Memory.read_below m' hm' (by omega)]
      rw [hv, ih hm hm' htail]
    · exact absurd (hread k' hk').symm (Memory.read_head_ne h' (Memory.wfFrom_raise h hlt))

end Sys2Proof.Machine
end

section
/-! SUPPORT. The frame of a write of a general register and of a view, and the views of a word (spec/10_state.md R10, R11). -/

namespace Sys2Proof.Safety

open Sys2Proof.Machine

/-- A write of a 16-bit register changes that register alone. -/
theorem framed_setR16 (s : State) (r : Reg16) (v : Word) : Framed [.gpr r] s (s.setR16 r v) := by
  refine framed_of_fields (fun q hq => ?_) (fun q _ => ?_) (fun f _ => ?_) (fun _ => rfl) (fun _ => rfl)
    (fun _ => ⟨rfl, rfl⟩) (fun _ => rfl) (fun _ => rfl) ⟨rfl, rfl, rfl, rfl, rfl⟩
  · have hne : q ≠ r := by simpa using hq
    simp [hne]
  · simp
  · simp

/-- A write of a view is a write of its parent, which keeps the parent's other byte. -/
theorem setR8_eq_setR16 (s : State) (r : Reg8) (v : Byte) :
    s.setR8 r v = s.setR16 (parent8 r)
      (if isHigh8 r then word v (lo8 (s.r16 (parent8 r))) else word (hi8 (s.r16 (parent8 r))) v) := rfl

theorem framed_setR8 (s : State) (r : Reg8) (v : Byte) : Framed [.gpr (parent8 r)] s (s.setR8 r v) := by
  rw [setR8_eq_setR16]
  exact framed_setR16 _ _ _

/-- The word of a parent is its two views, high byte first (spec/10_state.md R11). -/
theorem r16_eq_word_views (s : State) (l h : Reg8) (hl : isHigh8 l = false) (hh : isHigh8 h = true)
    (hp : parent8 h = parent8 l) : s.r16 (parent8 l) = word (s.r8 h) (s.r8 l) := by
  simp [State.r8, State.r16, RegFile.get8, hl, hh, hp]

end Sys2Proof.Safety
end

section
/-! SUPPORT. Reset, read through the accessors (spec/70_reset_and_hazards.md R221). -/

namespace Sys2Proof.Machine

@[simp] theorem State.r16_resetWrites (s : State) (r : Reg16) : s.resetWrites.r16 r = s.r16 r := by cases r <;> rfl

theorem State.seg_resetWrites_other (s : State) {r : SReg} (h : r ≠ .cs) : s.resetWrites.seg r = s.seg r := by
  cases r with
  | cs => exact absurd rfl h
  | es | ss | ds => rfl

/-- A running core accepts `reset`. -/
theorem resetEvent_running {s : State} (h : s.halt = .running) : resetEvent s = .next s.resetWrites := by
  simp [resetEvent, h]

end Sys2Proof.Machine
end

section
/-! SUPPORT. The machine's invariant, part by part: what keeps the byte arrays canonical, what makes the record agree. -/

namespace Sys2Proof.Safety

open Sys2Proof.Machine

theorem inv_iff {s : State} : inv s = true ↔ s.arraysWf ∧ haltAgrees s = true := by
  simp [inv, State.arraysWf]

/-- A core that has not halted has no record to disagree with. -/
theorem haltAgrees_of_running {s : State} (h : s.halt = .running) : haltAgrees s = true := by
  simp [haltAgrees, h]

/-- The record that a fatal condition writes agrees with the state, if it holds a ModR/M byte for UNRECOGNIZED_SUBENCODING alone
(spec/60_exceptions.md R205). -/
theorem haltAgrees_raiseFatal (s : State) {kind : FatalKind} {modrm : Option Byte}
    (h : modrm.isSome = (kind == .unrecognizedSubencoding)) : haltAgrees (s.raiseFatal kind modrm) = true := by
  simp [haltAgrees, h, State.curAddr, State.ip]

/-- A constructed core runs, so only its arrays matter. -/
theorem inv_construct (P : Config.Params) (init : RegFile) {mem ports : Memory} (hm : mem.wf Config.memSize = true)
    (hp : ports.wf Config.portSize = true) : inv (State.construct P init mem ports) = true :=
  inv_iff.mpr ⟨⟨hm, hp⟩, haltAgrees_of_running rfl⟩

/-- The end of a step writes no byte array. -/
theorem arraysWf_complete {s : State} (cur : Linear) (h : s.arraysWf) : (s.complete cur).arraysWf := by
  cases hs : s.halt with
  | running => rw [State.complete_running cur hs]; exact h
  | halted r => rw [State.complete_halted cur hs]; exact h

/-- The end of a step keeps the record of a handler that halted, and a handler that did not leaves none. -/
theorem haltAgrees_complete {s : State} (cur : Linear) (h : haltAgrees s = true) : haltAgrees (s.complete cur) = true := by
  cases hs : s.halt with
  | running => rw [State.complete_running cur hs]; exact haltAgrees_of_running hs
  | halted r => rwa [State.complete_halted cur hs]

/-- An instruction run by a running core leaves it running, or leaves the record of its own fatal condition. -/
theorem exec_haltAgrees {i : Instr} {s t : State} (hr : s.halt = .running) (h : exec i s = .next t) : haltAgrees t = true := by
  obtain ⟨-, -, -, -, -, -, -, -, hhalt | ⟨rm, f, -, -, rfl⟩⟩ := exec_keeps h
  · exact haltAgrees_of_running (hhalt.trans hr)
  · exact haltAgrees_raiseFatal _ rfl

/-- Every step keeps both byte arrays canonical. -/
theorem step_arraysWf {s t : State} (h : step s = .next t) (hw : s.arraysWf) : t.arraysWf := by
  obtain ⟨-, ⟨-, rfl⟩ | ⟨-, -, rfl⟩ | ⟨-, i, u, -, hu, rfl⟩⟩ := step_cases h
  · exact hw
  · exact hw
  · exact arraysWf_complete _ (exec_arraysWf hu hw)

/-- After every step the HALT record agrees with the state. It needs no hypothesis on the state before: that core was running, so
the record is the one this step wrote. -/
theorem step_haltAgrees {s t : State} (h : step s = .next t) : haltAgrees t = true := by
  obtain ⟨hr, ⟨-, rfl⟩ | ⟨-, -, rfl⟩ | ⟨-, i, u, -, hu, rfl⟩⟩ := step_cases h
  · exact haltAgrees_raiseFatal _ rfl
  · exact haltAgrees_raiseFatal _ rfl
  · exact haltAgrees_complete _ (exec_haltAgrees (s := s.fetchOpcode) hr hu)

end Sys2Proof.Safety
end

section
/-! The obligations on the state (spec/10_state.md). -/

namespace Sys2Proof.Safety

open Sys2Proof.Machine

/-- Settles O50: the arrays by what each instruction writes, the record by the one place that writes it. -/
theorem stepKeepsInvariant : Obligations.StepKeepsInvariant := by
  intro s t hinv hstep
  obtain ⟨hw, -⟩ := inv_iff.mp hinv
  exact inv_iff.mpr ⟨step_arraysWf hstep hw, step_haltAgrees hstep⟩

/-- Settles O9: a view is a byte of its parent, and a write of a view is a write of the parent. -/
theorem byteViewsAlias : Obligations.ByteViewsAlias := by
  refine ⟨fun s => ⟨?_, ?_, ?_, ?_⟩, fun s r v => ⟨?_, fun q hq => ?_, framed_setR8 s r v, ?_⟩,
    fun s r v => ⟨?_, framed_setR16 s r v, ?_⟩⟩
  · exact r16_eq_word_views s .al .ah rfl rfl rfl
  · exact r16_eq_word_views s .cl .ch rfl rfl rfl
  · exact r16_eq_word_views s .dl .dh rfl rfl rfl
  · exact r16_eq_word_views s .bl .bh rfl rfl rfl
  · simp
  · simp [hq]
  · simp
  · simp
  · simp

/-- Settles O12, by induction on the listed bytes (`Memory.eq_of_read_eq`). -/
theorem canonicalMemoryIsUnique : Obligations.CanonicalMemoryIsUnique :=
  fun _ _ _ h h' hread => Memory.eq_of_read_eq h h' hread

/-- Settles O55: a constructed core is running, so the reset is accepted, and its writes are those of R221. -/
theorem constructThenReset : Obligations.ConstructThenReset := by
  refine ⟨fun P init mem ports => ⟨rfl, rfl, rfl, rfl, rfl, _, resetEvent_running rfl, State.r16_resetWrites _,
    fun _ hr => State.seg_resetWrites_other _ hr, ?_⟩, resetEvent_running rfl⟩
  exact ⟨rfl, rfl, rfl, rfl, rfl, rfl, rfl, rfl, rfl, rfl, rfl⟩

/-- Settles O56: a core that runs over canonical arrays meets the invariant, and both states do. -/
theorem resetMeetsInvariant : Obligations.ResetMeetsInvariant :=
  ⟨inv_iff.mpr ⟨State.reset_arraysWf, haltAgrees_of_running rfl⟩, fun P init _ _ hm hp => inv_construct P init hm hp⟩

end Sys2Proof.Safety
end

section
/-! SUPPORT. Successors of linear addresses and ports, words in numbers, the data segment, the addresses of `Fetch`
(spec/20_memory.md R41 to R48). -/

namespace Sys2Proof

/-- The next linear address wraps at 2^20 (decision D6). -/
theorem linear_succ_toNat (a : Linear) : (a + 1).toNat = (a.toNat + 1) % 2 ^ 20 := by
  simp [BitVec.toNat_add]

theorem linear_ofNat_succ (a : Linear) : BitVec.ofNat 20 ((a.toNat + 1) % 2 ^ 20) = a + 1 := by
  rw [← linear_succ_toNat, BitVec.ofNat_toNat, BitVec.setWidth_eq]

/-- The next port wraps at 2^16 (decision D7). -/
theorem port_ofNat_succ (p : Word) : BitVec.ofNat 16 ((p.toNat + 1) % 2 ^ 16) = p + 1 := by
  apply BitVec.eq_of_toNat_eq
  simp [BitVec.toNat_add]

end Sys2Proof

namespace Sys2Proof.Machine

variable (s : State)

/-- A memory word in numbers, low byte first (spec/20_memory.md R43). -/
theorem State.wordAt_toNat (a : Linear) : (s.wordAt a).toNat = (s.byteAt a).toNat + 256 * (s.byteAt (a + 1)).toNat := by
  rw [State.wordAt, word_toNat, Nat.add_comm]

/-- A word of two ports in numbers, low byte first (spec/20_memory.md R48). -/
theorem State.portWordAt_toNat (p : Word) :
    (s.portWordAt p).toNat = (s.portAt p).toNat + 256 * (s.portAt (p + 1)).toNat := by
  rw [State.portWordAt, word_toNat, Nat.add_comm]

/-- A port word just written reads back (spec/20_memory.md R48). -/
@[simp] theorem State.portWordAt_portWrite16_same (p v : Word) : (s.portWrite16 p v).portWordAt p = v := by
  simp [State.portWordAt]

/-- An active override is the data segment (spec/20_memory.md R45). -/
theorem State.dataSeg_of_enable (h : s.ovr.enable = true) (d : SReg) : s.dataSeg d = s.ovr.selector := by
  simp [State.dataSeg, h]

/-- Without an override the default is the data segment (spec/20_memory.md R45). -/
theorem State.dataSeg_of_not_enable (h : s.ovr.enable = false) (d : SReg) : s.dataSeg d = s.seg d := by
  simp [State.dataSeg, h]

theorem State.fetchAddr_toNat (k : Nat) :
    (s.fetchAddr k).toNat = ((s.seg .cs).toNat * 16 + (s.ip.toNat + k) % 65536) % 2 ^ 20 := by
  rw [State.fetchAddr, addr_toNat]
  simp [State.seg, RegFile.getSeg, BitVec.toNat_add]

/-- Below the end of the code segment the next offset is at the next linear address (spec/20_memory.md R46). -/
theorem State.fetchAddr_succ {k : Nat} (h : s.ip.toNat + k + 1 < 65536) : s.fetchAddr (k + 1) = s.fetchAddr k + 1 := by
  apply BitVec.eq_of_toNat_eq
  simp only [linear_succ_toNat, State.fetchAddr_toNat]
  omega

/-- Below the end of the code segment a fetched word is two fetched bytes (spec/20_memory.md R46). -/
theorem State.fetch16_eq_word {k : Nat} (h : s.ip.toNat + k + 1 < 65536) :
    s.fetch16 k = word (s.fetch8 (k + 1)) (s.fetch8 k) := by
  simp only [State.fetch16, State.wordAt, State.fetch8, s.fetchAddr_succ h]

end Sys2Proof.Machine
end

section
/-! SUPPORT. Decoding from the fields that the reads give (spec/30_encoding.md R71): a view is the reads of some source, memory
at CS:IP or a list of bytes, and an instruction whose fields the source reads is the one decoded. -/

namespace Sys2Proof

/-- The view of a source of bytes and words, by position. -/
def CodeView.ofReads (byte : Nat → Byte) (wrd : Nat → Word) : CodeView :=
  { byte0 := byte 0, byte1 := byte 1, byte2 := byte 2, word1 := wrd 1, word2 := wrd 2, word3 := wrd 3 }

theorem Machine.State.codeView_eq_ofReads (s : Machine.State) : s.codeView = CodeView.ofReads s.fetch8 s.fetch16 := rfl

/-- The source reads the fields `ps` from position `k` on. -/
def ReadsPieces (byte : Nat → Byte) (wrd : Nat → Word) : Nat → List Piece → Prop
  | _, [] => True
  | k, .byte b :: ps => byte k = b ∧ ReadsPieces byte wrd (k + 1) ps
  | k, .word w :: ps => wrd k = w ∧ ReadsPieces byte wrd (k + 2) ps

/-- Where words are two bytes one after the other, a source that has the bytes of the fields reads the fields. -/
theorem readsPieces_of_bytes {byte : Nat → Byte} {wrd : Nat → Word} (ps : List Piece) (k : Nat)
    (hb : ∀ j, j < (ps.flatMap Piece.bytes).length → byte (k + j) = (ps.flatMap Piece.bytes).getD j 0)
    (hw : ∀ j, j + 1 < k + (ps.flatMap Piece.bytes).length → wrd j = word (byte (j + 1)) (byte j)) :
    ReadsPieces byte wrd k ps := by
  induction ps generalizing k with
  | nil => trivial
  | cons p ps ih =>
    cases p with
    | byte b =>
      simp only [List.flatMap_cons, Piece.bytes, List.cons_append, List.nil_append, List.length_cons] at hb hw
      refine ⟨by simpa using hb 0 (by omega), ih (k + 1) (fun j hj => ?_) (fun j hj => hw j (by omega))⟩
      simpa [Nat.add_assoc, Nat.add_comm 1] using hb (j + 1) (by omega)
    | word w =>
      simp only [List.flatMap_cons, Piece.bytes, List.cons_append, List.nil_append, List.length_cons] at hb hw
      have hlo : byte k = lo8 w := by simpa using hb 0 (by omega)
      have hhi : byte (k + 1) = hi8 w := by simpa using hb 1 (by omega)
      refine ⟨?_, ih (k + 2) (fun j hj => ?_) (fun j hj => hw j (by omega))⟩
      · rw [hw k (by omega), hlo, hhi, word_hi8_lo8]
      · simpa [Nat.add_assoc, Nat.add_comm 2] using hb (j + 2) (by omega)

/-- The row found for the primary byte gives the instruction. -/
theorem decode_of_find {c : CodeView} {b : Byte} {row : OpRow} {i : Instr} (hb : c.byte0 = b)
    (hrow : opTable.find? (fun r => r.maps b) = some row) (hi : row.operands c = i) : decode c = .ok i := by
  subst hb hi
  simp [decode, hrow]

/-- The encoder writes as many bytes as the length table says (spec/30_encoding.md R83). -/
theorem encode_length (i : Instr) : (encode i).length = i.length := by
  cases i with
  | xchgRm16R16 rm | movR8Rm8 _ rm | movR16Rm16 _ rm | movRm16Sreg rm | movSregRm16 _ rm =>
    exact (Laws.EncodedLength.of_modrm rm _ _).1
  | _ => rfl

variable {byte : Nat → Byte} {wrd : Nat → Word}

/-- A source that reads the fields of an operand and of its ModR/M byte reads that operand and that `reg` field. -/
theorem RM.parse_of_reads {ρ : Type} {regOf : BitVec 3 → ρ} {fieldOf : ρ → BitVec 3} (hr : ∀ r, regOf (fieldOf r) = r)
    {rm : RM ρ} {reg : BitVec 3} (hwf : rm.wf = true) (hm : byte 1 = rm.modrmByte fieldOf reg)
    (hd : ReadsPieces byte wrd 2 rm.dispPieces) :
    RM.parse regOf (byte 1) (byte 2) (wrd 2) = rm ∧ regField (byte 1) = reg := by
  rw [hm]
  refine ⟨RM.parse_modrmByte regOf fieldOf hr rm hwf reg _ _ ?_ ?_ ?_, regField_modrmByte fieldOf reg rm⟩
  · rintro b d rfl
    exact hd.1
  · rintro b d rfl
    exact hd.1
  · rintro d rfl
    exact hd.1

/-- The row of the eight opcode bytes B0 to B7 (spec/30_encoding.md R77). -/
theorem find_movR8Imm8 (r : Reg8) : opTable.find? (fun row => row.maps (0b10110#5 ++ r.field)) =
    some ⟨0xF8, 0xB0, fun c => .movR8Imm8 (Reg8.ofField (rmField c.byte0)) c.byte1⟩ := by
  cases r <;> rfl

/-- The row of the eight opcode bytes B8 to BF (spec/30_encoding.md R77). -/
theorem find_movR16Imm16 (r : Reg16) : opTable.find? (fun row => row.maps (0b10111#5 ++ r.field)) =
    some ⟨0xF8, 0xB8, fun c => .movR16Imm16 (Reg16.ofField (rmField c.byte0)) c.word1⟩ := by
  cases r <;> rfl

/-- A well-formed instruction whose fields a source reads is decoded from that source's view (spec/30_encoding.md R71). -/
theorem decode_of_readsPieces {i : Instr} (hwf : i.wf = true) (h : ReadsPieces byte wrd 0 (encodePieces i)) :
    decode (CodeView.ofReads byte wrd) = .ok i := by
  cases i with
  | segEs | segCs | segSs | segDs | nop | inAlDx | inAxDx | outDxAl | outDxAx | cli | cld =>
    exact decode_of_find h.1 rfl rfl
  | cmpAlImm8 | jzRel8 | jnzRel8 | movAlDisp8 | movDisp8Al | testAlImm8 | jcxzRel8 | inAlImm8 | inAxImm8 | outImm8Al
  | outImm8Ax | movAxDisp16 | movDisp16Ax | jmpRel16 =>
    obtain ⟨h0, h1, -⟩ := h
    exact decode_of_find h0 rfl (congrArg _ h1)
  | jmpFar off seg =>
    obtain ⟨h0, h1, h3, -⟩ := h
    exact decode_of_find h0 rfl (congrArg₂ _ h1 h3)
  | movR8Imm8 r imm =>
    obtain ⟨h0, h1, -⟩ := h
    exact decode_of_find h0 (find_movR8Imm8 r) (by simp [CodeView.ofReads, h0, h1])
  | movR16Imm16 r imm =>
    obtain ⟨h0, h1, -⟩ := h
    exact decode_of_find h0 (find_movR16Imm16 r) (by simp [CodeView.ofReads, h0, h1])
  | xchgRm16R16 rm r =>
    obtain ⟨h0, h1, hd⟩ := h
    obtain ⟨hrm, hreg⟩ := RM.parse_of_reads Reg16.ofField_field hwf h1 hd
    exact decode_of_find h0 rfl (congrArg₂ _ hrm (by simp [CodeView.ofReads, hreg]))
  | movR8Rm8 r rm =>
    obtain ⟨h0, h1, hd⟩ := h
    obtain ⟨hrm, hreg⟩ := RM.parse_of_reads Reg8.ofField_field hwf h1 hd
    exact decode_of_find h0 rfl (congrArg₂ _ (by simp [CodeView.ofReads, hreg]) hrm)
  | movR16Rm16 r rm =>
    obtain ⟨h0, h1, hd⟩ := h
    obtain ⟨hrm, hreg⟩ := RM.parse_of_reads Reg16.ofField_field hwf h1 hd
    exact decode_of_find h0 rfl (congrArg₂ _ (by simp [CodeView.ofReads, hreg]) hrm)
  | movRm16Sreg rm f =>
    obtain ⟨h0, h1, hd⟩ := h
    obtain ⟨hrm, hreg⟩ := RM.parse_of_reads Reg16.ofField_field hwf h1 hd
    exact decode_of_find h0 rfl (congrArg₂ _ hrm hreg)
  | movSregRm16 f rm =>
    obtain ⟨h0, h1, hd⟩ := h
    obtain ⟨hrm, hreg⟩ := RM.parse_of_reads Reg16.ofField_field hwf h1 hd
    exact decode_of_find h0 rfl (congrArg₂ _ hreg hrm)

end Sys2Proof
end

section
/-! SUPPORT. What an instruction does to memory and to the ports, said once (spec/20_memory.md R56). -/

namespace Sys2Proof.Safety

open Sys2Proof.Machine

variable {s t : State}

/-- An instruction stores nothing, one byte, or one word, where `storesTo` says. -/
theorem exec_mem_cases {i : Instr} (h : exec i s = .next t) :
    (storesTo s i = none ∧ t.mem = s.mem) ∨
    (∃ l v, storesTo s i = some (l, 1) ∧ t.mem = (s.setByteAt l v).mem) ∨
    (∃ l v, storesTo s i = some (l, 2) ∧ t.mem = (s.setWordAt l v).mem) := by
  cases i with
  | movDisp8Al d => cases h; exact .inr (.inl ⟨_, _, rfl, rfl⟩)
  | movDisp16Ax d => cases h; exact .inr (.inr ⟨_, _, rfl, rfl⟩)
  | xchgRm16R16 rm r =>
    cases h
    cases rm with
    | reg q => exact .inl ⟨rfl, rfl⟩
    | mem ea => exact .inr (.inr ⟨_, _, rfl, rfl⟩)
  | movRm16Sreg rm f =>
    simp only [exec, execMovRm16Sreg] at h
    cases hf : SReg.ofField f with
    | none =>
      rw [hf] at h
      cases h
      cases rm <;> simp [storesTo, hf]
    | some sr =>
      rw [hf] at h
      cases h
      cases rm with
      | reg q => exact .inl ⟨rfl, rfl⟩
      | mem ea => exact .inr (.inr ⟨s.eaLinear ea, s.seg sr, by simp [storesTo, hf], rfl⟩)
  | movSregRm16 f rm =>
    simp only [exec, execMovSregRm16] at h
    cases hf : SReg.ofField f <;> rw [hf] at h <;> cases h <;> exact .inl ⟨rfl, rfl⟩
  | jzRel8 | jnzRel8 | jcxzRel8 =>
    simp only [exec, execJzRel8, execJnzRel8, execJcxzRel8, State.jumpShortIf_eq] at h
    cases h
    exact .inl ⟨rfl, rfl⟩
  | _ => cases h; exact .inl ⟨rfl, rfl⟩

/-- An instruction accesses no port, reads one or two, or writes one or two, where `portAccess` says. -/
theorem exec_ports_cases {i : Instr} (h : exec i s = .next t) :
    (portAccess s i = none ∧ t.portEvents = s.portEvents ∧ t.ports = s.ports) ∨
    ∃ e, portAccess s i = some e ∧ t.portEvents = s.portEvents ++ [e] ∧
      (t.ports = s.ports ∨
        (∃ p v, e = .write8 p v ∧ t.ports = (s.portWrite8 p v).ports) ∨
        (∃ p v, e = .write16 p v ∧ t.ports = (s.portWrite16 p v).ports)) := by
  cases i with
  | inAlImm8 | inAxImm8 | inAlDx | inAxDx => cases h; exact .inr ⟨_, rfl, rfl, .inl rfl⟩
  | outImm8Al | outDxAl => cases h; exact .inr ⟨_, rfl, rfl, .inr (.inl ⟨_, _, rfl, rfl⟩)⟩
  | outImm8Ax | outDxAx => cases h; exact .inr ⟨_, rfl, rfl, .inr (.inr ⟨_, _, rfl, rfl⟩)⟩
  | xchgRm16R16 rm r => cases h; cases rm <;> exact .inl ⟨rfl, rfl, rfl⟩
  | movRm16Sreg rm f =>
    simp only [exec, execMovRm16Sreg] at h
    cases hf : SReg.ofField f <;> rw [hf] at h <;> cases h
    · exact .inl ⟨rfl, rfl, rfl⟩
    · cases rm <;> exact .inl ⟨rfl, rfl, rfl⟩
  | movSregRm16 f rm =>
    simp only [exec, execMovSregRm16] at h
    cases hf : SReg.ofField f <;> rw [hf] at h <;> cases h <;> exact .inl ⟨rfl, rfl, rfl⟩
  | jzRel8 | jnzRel8 | jcxzRel8 =>
    simp only [exec, execJzRel8, execJnzRel8, execJcxzRel8, State.jumpShortIf_eq] at h
    cases h
    exact .inl ⟨rfl, rfl, rfl⟩
  | _ => cases h; exact .inl ⟨rfl, rfl, rfl⟩

/-- Memory that is the same data reads the same. -/
theorem byteAt_congr {u : State} (h : t.mem = u.mem) (a : Linear) : t.byteAt a = u.byteAt a := by
  rw [State.byteAt, h, State.byteAt]

/-- Ports that are the same data read the same. -/
theorem portAt_congr (h : t.ports = s.ports) (p : Word) : t.portAt p = s.portAt p := by
  rw [State.portAt, h, State.portAt]

/-- A 16-bit port write changes the ports and their record, nothing else. -/
theorem framed_portWrite16 (s : State) (p v : Word) : Framed [.ports] s (s.portWrite16 p v) :=
  framed_of_fields (fun _ _ => rfl) (fun _ _ => rfl) (fun _ _ => rfl) (fun _ => rfl) (fun _ => rfl)
    (fun h => absurd (List.mem_singleton_self _) h) (fun _ => rfl) (fun _ => rfl) ⟨rfl, rfl, rfl, rfl, rfl⟩

end Sys2Proof.Safety
end

section
/-! The obligations on memory and the ports (spec/20_memory.md). -/

namespace Sys2Proof.Safety

open Sys2Proof.Machine

/-- Settles O10: a word is its two bytes, and a store writes those two. -/
theorem littleEndianWords : Obligations.LittleEndianWords := by
  intro s a v
  have hne : a ≠ a + 1 := (linear_succ_ne a).symm
  refine ⟨?_, s.wordAt_setWordAt_same a v, ?_, ?_, fun b hb hb' => ?_, fun w => ⟨?_, fun b hb => ?_⟩⟩
  · rw [linear_ofNat_succ, s.wordAt_toNat]
  · rw [State.byteAt_setWordAt, if_neg hne, if_pos rfl, lo8_toNat]
  · rw [State.byteAt_setWordAt, if_pos rfl, hi8_toNat]
  · rw [State.byteAt_setWordAt, if_neg hb', if_neg hb]
  · rw [State.byteAt_setByteAt, if_pos rfl]
  · rw [State.byteAt_setByteAt, if_neg hb]

/-- Settles O11: a port word is its two port bytes, and a write is two byte writes recorded as one access. -/
theorem portWords : Obligations.PortWords := by
  intro s p v
  refine ⟨?_, s.portWordAt_portWrite16_same p v, fun q hq hq' => ?_, s.portWrite16_portEvents p v,
    framed_portWrite16 s p v⟩
  · rw [port_ofNat_succ, s.portWordAt_toNat]
  · rw [State.portAt_portWrite16, if_neg hq', if_neg hq]

/-- Settles O14: below the end of the segment the fetched words are bytes one after the other, so the fields of the
instruction are read. -/
theorem storedInstructionIsDecoded : Obligations.StoredInstructionIsDecoded := by
  intro s i hwf hbytes hend
  have hlen : (encode i).length = i.length := encode_length i
  rw [s.codeView_eq_ofReads]
  refine decode_of_readsPieces hwf (readsPieces_of_bytes _ 0 (fun j hj => ?_) (fun j hj => ?_))
  · rw [Nat.zero_add]
    exact hbytes j hj
  · have : j + 1 < (encode i).length := by simpa [encode] using hj
    exact s.fetch16_eq_word (by omega)

/-- Settles O39: what an instruction stores is nothing, a byte or a word (`exec_mem_cases`), and a store changes no other
byte. -/
theorem storesOnlyWhereTheySay : Obligations.StoresOnlyWhereTheySay := by
  intro i s t a h ha
  obtain ⟨-, hm⟩ | ⟨l, v, hst, hm⟩ | ⟨l, v, hst, hm⟩ := exec_mem_cases h
  · exact byteAt_congr hm a
  · obtain ⟨hl, -⟩ := ha l 1 hst
    rw [byteAt_congr hm, State.byteAt_setByteAt, if_neg hl]
  · obtain ⟨hl, hl'⟩ := ha l 2 hst
    rw [byteAt_congr hm, State.byteAt_setWordAt, if_neg (hl' rfl), if_neg hl]

/-- Settles O40: an instruction records its one access if it has one, and the ports change by a write alone
(`exec_ports_cases`). -/
theorem portAccessesOnceEach : Obligations.PortAccessesOnceEach := by
  intro i s t h
  obtain ⟨hacc, he, hp⟩ | ⟨e, hacc, he, hp⟩ := exec_ports_cases h
  · exact ⟨by simp [hacc, he], fun _ _ q => portAt_congr hp q⟩
  · refine ⟨by simp [hacc, he], fun h8 h16 q => ?_⟩
    obtain hp | ⟨p, v, rfl, -⟩ | ⟨p, v, rfl, -⟩ := hp
    · exact portAt_congr hp q
    · exact absurd hacc (h8 p v)
    · exact absurd hacc (h16 p v)

/-- Settles O8: `addr` is the reduced sum. -/
theorem linearAddress : Obligations.LinearAddress := addr_toNat

/-- Settles O13: both reads start at the address of the reduced offset, and the word's high byte is at the one after it. -/
theorem fetchAddresses : Obligations.FetchAddresses := by
  intro s k a
  have hlo : BitVec.ofNat 20 a = s.fetchAddr k := by
    rw [show a = (s.fetchAddr k).toNat from (s.fetchAddr_toNat k).symm, BitVec.ofNat_toNat, BitVec.setWidth_eq]
  have hhi : BitVec.ofNat 20 (a + 1) = s.fetchAddr k + 1 := by
    rw [BitVec.ofNat_add, hlo]
    rfl
  rw [hlo, hhi]
  exact ⟨rfl, rfl⟩

/-- Settles O15: the two cases of the data segment, for the default `d` and for the DS of a direct address. -/
theorem overrideReplacesDefault : Obligations.OverrideReplacesDefault := fun s d off =>
  ⟨fun h => ⟨s.dataSeg_of_enable h d, congrArg (addr · off) (s.dataSeg_of_enable h .ds)⟩,
    fun h => ⟨s.dataSeg_of_not_enable h d, congrArg (addr · off) (s.dataSeg_of_not_enable h .ds)⟩⟩

end Sys2Proof.Safety
end

section
/-! SUPPORT. From a decoded instruction back to the fields it was read from, the converse of `decode_of_readsPieces`, and byte
lists as a source of reads (spec/30_encoding.md R71 to R78). -/

namespace Sys2Proof

/-- A row whose mask keeps every bit maps one primary byte (spec/30_encoding.md R78). -/
theorem OpRow.maps_full_iff {p b : Byte} {f : CodeView → Instr} : OpRow.maps ⟨0xFF, p, f⟩ b = true ↔ b = p := by
  have hall : b &&& 0xFF#8 = b := BitVec.and_allOnes
  simp [OpRow.maps, hall]

/-- The row of the bytes B0 to B7: the upper five bits are fixed, the lower three name a register (spec/30_encoding.md R77). -/
theorem OpRow.maps_b0_iff {b : Byte} {f : CodeView → Instr} :
    OpRow.maps ⟨0xF8, 0xB0, f⟩ b = true ↔ b = 0b10110#5 ++ rmField b := by
  revert b
  simp only [OpRow.maps]
  decide

/-- The row of the bytes B8 to BF (spec/30_encoding.md R77). -/
theorem OpRow.maps_b8_iff {b : Byte} {f : CodeView → Instr} :
    OpRow.maps ⟨0xF8, 0xB8, f⟩ b = true ↔ b = 0b10111#5 ++ rmField b := by
  revert b
  simp only [OpRow.maps]
  decide

/-- Every row gives a well-formed instruction: a parsed operand is. -/
theorem operands_wf (c : CodeView) : ∀ row ∈ opTable, (row.operands c).wf = true := by
  simp [opTable, Instr.wf, CodeView.rm16, CodeView.rm8, RM.parse_wf]

theorem wf_of_decode {c : CodeView} {i : Instr} (h : decode c = .ok i) : i.wf = true := by
  obtain ⟨row, hrow, -, rfl⟩ := decode_ok h
  exact operands_wf c row hrow

variable {byte : Nat → Byte} {wrd : Nat → Word}

/-- The displacement field of a parsed operand is the one read. -/
theorem readsPieces_dispPieces_parse {ρ : Type} (regOf : BitVec 3 → ρ) (m : Byte) :
    ReadsPieces byte wrd 2 (RM.parse regOf m (byte 2) (wrd 2)).dispPieces := by
  unfold RM.parse
  split_ifs <;> simp [RM.dispPieces, ReadsPieces]

/-- The fields of the instruction that a row gives are the ones read: the primary byte is what the row maps, a ModR/M byte is
that of its parsed operand and `reg` field. -/
theorem readsPieces_operands : ∀ row ∈ opTable, row.maps (byte 0) = true →
    ReadsPieces byte wrd 0 (encodePieces (row.operands (CodeView.ofReads byte wrd))) := by
  simp only [opTable, List.cons_append, List.nil_append, List.forall_mem_cons, OpRow.maps_full_iff, OpRow.maps_b0_iff,
    OpRow.maps_b8_iff]
  simp [encodePieces, ReadsPieces, CodeView.ofReads, CodeView.rm16, CodeView.rm8, RM.modrmByte_parse,
    readsPieces_dispPieces_parse]

/-- An instruction decodes from a source exactly when it is well-formed and the source reads its fields. -/
theorem decode_ofReads_iff {i : Instr} :
    decode (CodeView.ofReads byte wrd) = .ok i ↔ i.wf = true ∧ ReadsPieces byte wrd 0 (encodePieces i) := by
  refine ⟨fun h => ⟨wf_of_decode h, ?_⟩, fun ⟨hwf, h⟩ => decode_of_readsPieces hwf h⟩
  obtain ⟨row, hrow, hmap, rfl⟩ := decode_ok h
  exact readsPieces_operands row hrow hmap

/-- Every view is that of some source. -/
theorem CodeView.exists_ofReads (c : CodeView) : ∃ byte wrd, c = CodeView.ofReads byte wrd :=
  ⟨fun k => [c.byte0, c.byte1, c.byte2].getD k 0, fun k => [0, c.word1, c.word2, c.word3].getD k 0, rfl⟩

/-- The byte that a list holds at a position, 0 past its end: how a list of bytes is a source. -/
def listByte (bs : List Byte) (k : Nat) : Byte := bs.getD k 0

/-- The word that a list holds from a position on, low byte first. -/
def listWord (bs : List Byte) (k : Nat) : Word := word (listByte bs (k + 1)) (listByte bs k)

theorem CodeView.ofBytes_eq_ofReads (bs : List Byte) : CodeView.ofBytes bs = CodeView.ofReads (listByte bs) (listWord bs) := rfl

/-- A list that begins with the bytes of fields reads those fields. -/
theorem readsPieces_append (ps : List Piece) (rest : List Byte) :
    ReadsPieces (listByte (ps.flatMap Piece.bytes ++ rest)) (listWord (ps.flatMap Piece.bytes ++ rest)) 0 ps := by
  refine readsPieces_of_bytes ps 0 (fun j hj => ?_) (fun _ _ => rfl)
  rw [Nat.zero_add, listByte, List.getD_append _ _ _ _ hj]

theorem drop_eq_listByte_cons {bs : List Byte} {k : Nat} (h : k < bs.length) :
    bs.drop k = listByte bs k :: bs.drop (k + 1) := by
  rw [List.drop_eq_getElem_cons h, listByte, List.getD_eq_getElem _ _ h]

/-- A list that reads fields, and is long enough to hold them, holds their bytes. -/
theorem drop_eq_of_readsPieces {bs : List Byte} (ps : List Piece) (k : Nat)
    (h : ReadsPieces (listByte bs) (listWord bs) k ps) (hlen : k + (ps.flatMap Piece.bytes).length ≤ bs.length) :
    bs.drop k = ps.flatMap Piece.bytes ++ bs.drop (k + (ps.flatMap Piece.bytes).length) := by
  induction ps generalizing k with
  | nil => rfl
  | cons p ps ih =>
    cases p with
    | byte b =>
      obtain ⟨rfl, h⟩ := h
      simp only [List.flatMap_cons, Piece.bytes, List.cons_append, List.nil_append, List.length_cons] at hlen ⊢
      rw [drop_eq_listByte_cons (by omega), ih (k + 1) h (by omega), Nat.add_right_comm k 1, Nat.add_assoc k]
    | word w =>
      obtain ⟨rfl, h⟩ := h
      simp only [List.flatMap_cons, Piece.bytes, List.cons_append, List.nil_append, List.length_cons] at hlen ⊢
      rw [drop_eq_listByte_cons (by omega), drop_eq_listByte_cons (by omega), ih (k + 2) h (by omega), listWord, lo8_word,
        hi8_word, Nat.add_right_comm k 2, Nat.add_assoc k]

/-- A list of bytes decodes when its view does and the instruction ends within it. -/
theorem decodeBytes_eq_ok_iff {bs rest : List Byte} {i : Instr} :
    decodeBytes bs = .ok (i, rest) ↔
      decode (CodeView.ofBytes bs) = .ok i ∧ i.length ≤ bs.length ∧ bs.drop i.length = rest := by
  unfold decodeBytes
  by_cases hbs : bs = []
  · subst hbs
    have hnil : decode (CodeView.ofBytes []) = .error (.unmappedOpcode 0) := rfl
    simp [hnil]
  cases hd : decode (CodeView.ofBytes bs) with
  | error e => simp [hbs]
  | ok i' =>
    simp only [if_neg hbs, Except.ok.injEq]
    constructor
    · intro h
      split at h
      · next hlen =>
        cases h
        exact ⟨rfl, hlen, rfl⟩
      · cases h
    · rintro ⟨rfl, hlen, rfl⟩
      rw [if_pos hlen]

end Sys2Proof
end

section
/-! SUPPORT. Which primary bytes the map has, and the length of an instruction from the fields it was decoded from
(spec/30_encoding.md R79, R83). -/

namespace Sys2Proof

/-- The map has a row for every byte that R79 does not list, and for no other. -/
theorem opTable_find?_isSome : ∀ b : Byte,
    (opTable.find? fun row => row.maps b).isSome = !Safety.unmappedByte b.toNat := by
  decide

/-- A byte with no row is refused by name. -/
theorem decode_of_unmapped {c : CodeView} (h : Safety.unmappedByte c.byte0.toNat = true) :
    decode c = .error (.unmappedOpcode c.byte0) := by
  have hnone : opTable.find? (fun row => row.maps c.byte0) = none := by
    simpa [h] using opTable_find?_isSome c.byte0
  simp [decode, hnone]

/-- A byte with a row decodes, whatever follows. -/
theorem decode_of_mapped {c : CodeView} (h : Safety.unmappedByte c.byte0.toNat = false) : ∃ i, decode c = .ok i := by
  have hsome : (opTable.find? fun row => row.maps c.byte0).isSome = true := by
    simpa [h] using opTable_find?_isSome c.byte0
  obtain ⟨row, hrow⟩ := Option.isSome_iff_exists.mp hsome
  exact ⟨row.operands c, by simp [decode, hrow]⟩

/-- The length of an instruction with a ModR/M byte, by the two fields of that byte: the last rows of the table. -/
theorem lengthTable_of_modrm_opcode {b0 : Nat} (hb : b0 ∈ [0x87, 0x8A, 0x8B, 0x8C, 0x8E]) (mod rm : Nat) :
    Safety.lengthTable b0 mod rm =
      if mod = 3 then 2 else if mod = 1 then 3 else if mod = 2 then 4 else if rm = 6 then 4 else 2 := by
  simp only [List.mem_cons, List.not_mem_nil, or_false] at hb
  rcases hb with rfl | rfl | rfl | rfl | rfl <;> rfl

/-- The last rows of the table give the opcode byte and the operand's total (spec/30_encoding.md R73, R83). -/
theorem lengthTable_modrmByte {ρ : Type} (fieldOf : ρ → BitVec 3) (reg : BitVec 3) {rm : RM ρ} (hwf : rm.wf = true)
    {b0 : Nat} (hb : b0 ∈ [0x87, 0x8A, 0x8B, 0x8C, 0x8E]) :
    Safety.lengthTable b0 (modField (rm.modrmByte fieldOf reg)).toNat (rmField (rm.modrmByte fieldOf reg)).toNat =
      1 + rm.total := by
  rw [lengthTable_of_modrm_opcode hb]
  rcases rm with r | (d | b | ⟨b, d⟩ | ⟨b, d⟩)
  case mem.based =>
    have hfield : b.field.toNat ≠ 6 := fun h => by
      have hbp : b = .bp := (Base.field_eq_six b).mp (BitVec.eq_of_toNat_eq h)
      simp [RM.wf, EA.wf, hbp] at hwf
    simp [RM.modrmByte, RM.total, EA.dispBytes, hfield]
  all_goals simp [RM.modrmByte, RM.total, EA.dispBytes]

variable {byte : Nat → Byte} {wrd : Nat → Word}

/-- The length of a well-formed instruction whose fields a source reads is that of the table of R83. -/
theorem length_eq_lengthTable {i : Instr} (hwf : i.wf = true) (h : ReadsPieces byte wrd 0 (encodePieces i)) :
    i.length = Safety.lengthTable (byte 0).toNat (modField (byte 1)).toNat (rmField (byte 1)).toNat := by
  cases i with
  | xchgRm16R16 rm r | movR8Rm8 r rm | movR16Rm16 r rm | movRm16Sreg rm r | movSregRm16 r rm =>
    obtain ⟨h0, h1, -⟩ := h
    rw [h0, h1]
    exact (lengthTable_modrmByte _ _ hwf (by decide)).symm
  | movR8Imm8 r imm | movR16Imm16 r imm =>
    obtain ⟨h0, -⟩ := h
    rw [h0]
    cases r <;> rfl
  | _ =>
    obtain ⟨h0, -⟩ := h
    rw [h0]
    rfl

end Sys2Proof
end

section
/-! SUPPORT. The memory form of a ModR/M byte, and its segment and offset in numbers (spec/30_encoding.md R72 to R74,
spec/20_memory.md R45). -/

namespace Sys2Proof

theorem modField_toNat : ∀ m : Byte, (modField m).toNat = m.toNat / 64 := by decide

theorem rmField_toNat : ∀ m : Byte, (rmField m).toNat = m.toNat % 8 := by decide

theorem modField_eq_iff {m : Byte} {k : BitVec 2} : modField m = k ↔ m.toNat / 64 = k.toNat := by
  rw [← modField_toNat, BitVec.toNat_inj]

theorem rmField_eq_iff {m : Byte} {k : BitVec 3} : rmField m = k ↔ m.toNat % 8 = k.toNat := by
  rw [← rmField_toNat, BitVec.toNat_inj]

theorem ofNat_eq_rmField (m : Byte) : BitVec.ofNat 3 (m.toNat % 8) = rmField m := by
  rw [← rmField_toNat, BitVec.ofNat_toNat, BitVec.setWidth_eq]

/-- The memory form that `mod` and `rm` name when `mod` is not 3; no register file enters (spec/30_encoding.md R73). -/
def EA.parse (m disp8 : Byte) (disp16 : Word) : EA :=
  if modField m = 0 then
    if rmField m = 6 then .direct disp16 else .based (Base.ofField (rmField m))
  else if modField m = 1 then .disp8 (Base.ofField (rmField m)) disp8
  else .disp16 (Base.ofField (rmField m)) disp16

section
variable {m d8 : Byte} {d16 : Word}

theorem RM.parse_of_mod_eq_three {ρ : Type} (regOf : BitVec 3 → ρ) (h : modField m = 3) :
    RM.parse regOf m d8 d16 = .reg (regOf (rmField m)) := if_pos h

theorem RM.parse_of_mod_ne_three {ρ : Type} (regOf : BitVec 3 → ρ) (h : modField m ≠ 3) :
    RM.parse regOf m d8 d16 = .mem (EA.parse m d8 d16) := by
  simp only [RM.parse, EA.parse, if_neg h, apply_ite RM.mem]

theorem EA.parse_direct (h : modField m = 0) (h6 : rmField m = 6) : EA.parse m d8 d16 = .direct d16 := by
  simp [EA.parse, h, h6]

theorem EA.parse_based (h : modField m = 0) (h6 : rmField m ≠ 6) :
    EA.parse m d8 d16 = .based (Base.ofField (rmField m)) := by
  rw [EA.parse, if_pos h, if_neg h6]

theorem EA.parse_disp8 (h : modField m = 1) : EA.parse m d8 d16 = .disp8 (Base.ofField (rmField m)) d8 := by
  simp [EA.parse, h]

theorem EA.parse_disp16 (h : modField m = 2) : EA.parse m d8 d16 = .disp16 (Base.ofField (rmField m)) d16 := by
  simp [EA.parse, h]

end

end Sys2Proof

namespace Sys2Proof.Machine

/-- A base in numbers (spec/30_encoding.md R74). -/
theorem baseOffset_toNat (f : RegFile) (b : Base) : (baseOffset f b).toNat = Safety.rmBase f b.field.toNat % 65536 := by
  cases b with
  | bxSi | bxDi | bpSi | bpDi => exact BitVec.toNat_add _ _
  | si | di | bp | bx => exact (Nat.mod_eq_of_lt (BitVec.isLt _)).symm

/-- A base with a displacement byte in numbers: the byte is signed (spec/30_encoding.md R73). -/
theorem eaOffset_disp8_toNat (f : RegFile) (b : Base) (d : Byte) :
    ((eaOffset f (.disp8 b d)).toNat : Int) = ((Safety.rmBase f b.field.toNat : Int) + Safety.signed8 d) % 65536 := by
  have hd := d.isLt
  rw [eaOffset, BitVec.toNat_add, baseOffset_toNat, sext16_toNat, Safety.signed8]
  split_ifs <;> omega

/-- A base with a displacement word in numbers (spec/30_encoding.md R73). -/
theorem eaOffset_disp16_toNat (f : RegFile) (b : Base) (d : Word) :
    (eaOffset f (.disp16 b d)).toNat = (Safety.rmBase f b.field.toNat + d.toNat) % 65536 := by
  rw [eaOffset, BitVec.toNat_add, baseOffset_toNat, Nat.mod_add_mod]

/-- The fields of the bases with BP (spec/30_encoding.md R74). -/
theorem baseSeg_ofField : ∀ f : BitVec 3,
    baseSeg (Base.ofField f) = if f.toNat = 2 ∨ f.toNat = 3 ∨ f.toNat = 6 then .ss else .ds := by decide

/-- The default segment by the fields of the ModR/M byte: SS for a base with BP, which `rm = 6` is not under `mod = 0`
(spec/20_memory.md R45, decision D18). -/
theorem eaSeg_parse (m d8 : Byte) (d16 : Word) :
    eaSeg (EA.parse m d8 d16) =
      if m.toNat % 8 = 2 ∨ m.toNat % 8 = 3 ∨ (m.toNat % 8 = 6 ∧ m.toNat / 64 ≠ 0) then .ss else .ds := by
  have hbase := baseSeg_ofField (rmField m)
  rw [rmField_toNat] at hbase
  by_cases h0 : m.toNat / 64 = 0
  · have hmod : modField m = 0 := modField_eq_iff.mpr h0
    by_cases h6 : m.toNat % 8 = 6
    · rw [EA.parse_direct hmod (rmField_eq_iff.mpr h6), if_neg (by omega)]
      rfl
    · rw [EA.parse_based hmod (fun h => h6 (rmField_eq_iff.mp h)), eaSeg, hbase]
      exact if_congr (by omega) rfl rfl
  · have hmod : modField m ≠ 0 := fun h => h0 (modField_eq_iff.mp h)
    have hseg : eaSeg (EA.parse m d8 d16) = baseSeg (Base.ofField (rmField m)) := by
      simp only [EA.parse, if_neg hmod]
      split_ifs <;> rfl
    rw [hseg, hbase]
    exact if_congr (by omega) rfl rfl

end Sys2Proof.Machine
end

section
/-! SUPPORT. The numbering of the three register files (spec/30_encoding.md R77, R80, R81). -/

namespace Sys2Proof.Machine

/-- The number of a 16-bit register is its place in the file (spec/10_state.md R10). -/
theorem State.r16_eq_getD (s : State) (r : Reg16) :
    s.r16 r =
      [s.regs.ax, s.regs.cx, s.regs.dx, s.regs.bx, s.regs.sp, s.regs.bp, s.regs.si, s.regs.di].getD r.field.toNat 0 := by
  cases r <;> rfl

/-- The number of a segment register is its place in the file (spec/10_state.md R12). -/
theorem State.map_seg_ofField (s : State) {f : BitVec 3} (hf : f.toNat < 4) :
    (SReg.ofField f).map s.seg = some ([s.regs.es, s.regs.cs, s.regs.ss, s.regs.ds].getD f.toNat 0) := by
  have hcases : ∀ f : BitVec 3, f.toNat < 4 → f = 0 ∨ f = 1 ∨ f = 2 ∨ f = 3 := by decide
  rcases hcases f hf with rfl | rfl | rfl | rfl <;> rfl

/-- The views 0 to 3 are the low bytes of the registers 0 to 3 (spec/10_state.md R11). -/
theorem low_view_ofField : ∀ f : BitVec 3, f.toNat < 4 →
    isHigh8 (Reg8.ofField f) = false ∧ parent8 (Reg8.ofField f) = Reg16.ofField f := by
  decide

/-- The views 4 to 7 are the high bytes of the registers 0 to 3 (spec/10_state.md R11). -/
theorem high_view_ofField : ∀ f : BitVec 3, ¬f.toNat < 4 →
    isHigh8 (Reg8.ofField f) = true ∧ parent8 (Reg8.ofField f) = Reg16.ofField (f - 4) := by
  decide

/-- A view in numbers: a byte of its parent (spec/10_state.md R11). -/
theorem State.r8_toNat (s : State) (r : Reg8) :
    (s.r8 r).toNat = if isHigh8 r then (s.r16 (parent8 r)).toNat / 256 else (s.r16 (parent8 r)).toNat % 256 := by
  rw [← lo8_toNat, ← hi8_toNat, ← apply_ite BitVec.toNat]
  rfl

end Sys2Proof.Machine
end

section
/-! SUPPORT. The `Sreg` moves by their field, the frame of a fatal condition, and where an instruction leaves IP
(spec/30_encoding.md R81, R84, spec/41_control_transfer.md R125). -/

namespace Sys2Proof.Machine

/-- `8C` with a field that names no segment register (spec/30_encoding.md R81). -/
theorem exec_movRm16Sreg_of_none {f : BitVec 3} (h : SReg.ofField f = none) (rm : RM Reg16) (s : State) :
    exec (.movRm16Sreg rm f) s = .next (s.raiseFatal .unrecognizedSubencoding (some (rm.modrmByte Reg16.field f))) := by
  simp [exec, execMovRm16Sreg, h]

/-- `8E` with a field that names no segment register (spec/30_encoding.md R81). -/
theorem exec_movSregRm16_of_none {f : BitVec 3} (h : SReg.ofField f = none) (rm : RM Reg16) (s : State) :
    exec (.movSregRm16 f rm) s = .next (s.raiseFatal .unrecognizedSubencoding (some (rm.modrmByte Reg16.field f))) := by
  simp [exec, execMovSregRm16, h]

/-- `8C` with a field that names a segment register (spec/40_mov.md R108). -/
theorem exec_movRm16Sreg_of_some {f : BitVec 3} {sr : SReg} (h : SReg.ofField f = some sr) (rm : RM Reg16) (s : State) :
    exec (.movRm16Sreg rm f) s = .next ((s.writePlace16 (s.seg sr) (s.place rm)).advance (1 + rm.total)) := by
  simp [exec, execMovRm16Sreg, h]

/-- `8E` with a field that names a segment register (spec/40_mov.md R109). -/
theorem exec_movSregRm16_of_some {f : BitVec 3} {sr : SReg} (h : SReg.ofField f = some sr) (rm : RM Reg16) (s : State) :
    exec (.movSregRm16 f rm) s = .next ((s.setSeg sr (s.readPlace16 (s.place rm))).advance (1 + rm.total)) := by
  simp [exec, execMovSregRm16, h]

@[simp] theorem State.ip_writePlace16 (s : State) (v : Word) (p : Place Reg16) : (s.writePlace16 v p).ip = s.ip := by
  cases p <;> simp [State.writePlace16]

variable {s t : State}

theorem State.ip_jumpShortIf_of_taken {taken : Bool} (rel : Byte) (h : taken = true) :
    (s.jumpShortIf taken rel).ip = s.ip + 2 + sext16 rel := by
  simp [State.jumpShortIf_eq, h]

theorem State.ip_jumpShortIf_of_not_taken {taken : Bool} (rel : Byte) (h : taken = false) :
    (s.jumpShortIf taken rel).ip = s.ip + 2 := by
  simp [State.jumpShortIf_eq, h]

/-- An instruction that is no jump and leaves the core running moves IP past itself (spec/30_encoding.md R84). -/
theorem exec_ip_of_not_jump {i : Instr} (h : exec i s = .next t) (hrun : t.halt = .running) (hj : Safety.isJump i = false) :
    t.ip = s.ip + BitVec.ofNat 16 i.length := by
  cases i with
  | jzRel8 | jnzRel8 | jcxzRel8 | jmpRel16 | jmpFar => cases hj
  | movRm16Sreg rm f =>
    cases hf : SReg.ofField f with
    | none =>
      rw [exec_movRm16Sreg_of_none hf rm s] at h
      cases h
      cases hrun
    | some sr =>
      rw [exec_movRm16Sreg_of_some hf rm s] at h
      cases h
      simp [Instr.length]
  | movSregRm16 f rm =>
    cases hf : SReg.ofField f with
    | none =>
      rw [exec_movSregRm16_of_none hf rm s] at h
      cases h
      cases hrun
    | some sr =>
      rw [exec_movSregRm16_of_some hf rm s] at h
      cases h
      simp [Instr.length]
  | _ =>
    cases h
    simp [Instr.length, State.portRead8, State.portRead16]

end Sys2Proof.Machine

namespace Sys2Proof.Safety

open Sys2Proof.Machine

/-- A fatal condition writes the HALT record alone (spec/60_exceptions.md R205). -/
theorem framed_raiseFatal (s : State) (kind : FatalKind) (modrm : Option Byte) :
    Framed [.halt] s (s.raiseFatal kind modrm) :=
  framed_of_fields (fun _ _ => rfl) (fun _ _ => rfl) (fun _ _ => rfl) (fun _ => rfl) (fun _ => rfl) (fun _ => ⟨rfl, rfl⟩)
    (fun _ => rfl) (fun h => absurd (List.mem_singleton_self _) h) ⟨rfl, rfl, rfl, rfl, rfl⟩

end Sys2Proof.Safety
end

section
/-! The obligations on the encoding (spec/30_encoding.md). -/

namespace Sys2Proof.Safety

open Sys2Proof.Machine

/-- Settles O1: the bytes of the instruction, whatever follows, read its fields, and fields that are read decode. -/
theorem decodeOfEncode : Obligations.DecodeOfEncode := by
  intro i rest hwf
  rw [decodeBytes_eq_ok_iff, CodeView.ofBytes_eq_ofReads, decode_ofReads_iff, ← encode_length]
  exact ⟨⟨hwf, readsPieces_append (encodePieces i) rest⟩, by simp, by simp⟩

/-- Settles O2: an instruction that decodes has its fields read from the list, which therefore holds their bytes. -/
theorem encodeOfDecode : Obligations.EncodeOfDecode := by
  intro bs rest i h
  rw [decodeBytes_eq_ok_iff, CodeView.ofBytes_eq_ofReads, decode_ofReads_iff, ← encode_length] at h
  obtain ⟨⟨hwf, hreads⟩, hlen, rfl⟩ := h
  refine ⟨?_, hwf⟩
  simpa [encode] using drop_eq_of_readsPieces (encodePieces i) 0 hreads (by simpa [encode] using hlen)

/-- Settles O4: the map has a row for the unlisted bytes alone (`opTable_find?_isSome`). -/
theorem mappedBytesAreThe47 : Obligations.MappedBytesAreThe47 :=
  ⟨fun _ => decode_of_unmapped, fun _ => decode_of_mapped, by decide⟩

/-- Settles O5: the fields of a decoded instruction are the ones read, and they fix its row of the table. -/
theorem instructionLengths : Obligations.InstructionLengths := by
  intro c i h
  obtain ⟨byte, wrd, rfl⟩ := c.exists_ofReads
  obtain ⟨hwf, hreads⟩ := decode_ofReads_iff.mp h
  exact ⟨length_eq_lengthTable hwf hreads, encode_length i⟩

/-- Settles O7: `mod = 3` names a register; any other `mod` names one memory form for both files, whose segment and offset are
taken form by form. -/
theorem modRmOperandForms : Obligations.ModRmOperandForms := by
  intro s c mod rm usesBp d b
  refine ⟨fun h3 => ?_, fun h3 => ?_⟩
  · have hmod : modField c.byte1 = 3 := modField_eq_iff.mpr h3
    have hd : d = .reg (Reg16.ofField (BitVec.ofNat 3 rm)) := by
      rw [ofNat_eq_rmField]; exact RM.parse_of_mod_eq_three _ hmod
    have hb : b = .reg (Reg8.ofField (BitVec.ofNat 3 rm)) := by
      rw [ofNat_eq_rmField]; exact RM.parse_of_mod_eq_three _ hmod
    rw [hd, hb]
    exact ⟨rfl, rfl, rfl, rfl, rfl, rfl⟩
  · have hmod : modField c.byte1 ≠ 3 := fun h => h3 (modField_eq_iff.mp h)
    have hfield : (Base.ofField (rmField c.byte1)).field.toNat = rm := by rw [Base.field_ofField, rmField_toNat]
    have hd : d = .mem (EA.parse c.byte1 c.byte2 c.word2) := RM.parse_of_mod_ne_three _ hmod
    have hb : b = .mem (EA.parse c.byte1 c.byte2 c.word2) := RM.parse_of_mod_ne_three _ hmod
    rw [hd, hb]
    refine ⟨s.dataSeg (eaSeg _), eaOffset s.regs _, rfl, rfl, rfl, fun he => s.dataSeg_of_enable he _, fun he hbp => ?_,
      fun he hbp => ?_, fun h0 h6 => ?_, fun h0 h6 => ?_, fun h1 => ?_, fun h2 => ?_⟩
    · rw [s.dataSeg_of_not_enable he, eaSeg_parse, if_pos hbp]
    · rw [s.dataSeg_of_not_enable he, eaSeg_parse, if_neg hbp]
    · rw [EA.parse_direct (modField_eq_iff.mpr h0) (rmField_eq_iff.mpr h6)]
      exact ⟨rfl, rfl⟩
    · rw [EA.parse_based (modField_eq_iff.mpr h0) (fun h => h6 (rmField_eq_iff.mp h)), ← hfield]
      exact ⟨baseOffset_toNat _ _, rfl⟩
    · rw [EA.parse_disp8 (modField_eq_iff.mpr h1), ← hfield]
      exact ⟨eaOffset_disp8_toNat _ _ _, rfl⟩
    · rw [EA.parse_disp16 (modField_eq_iff.mpr h2), ← hfield]
      exact ⟨eaOffset_disp16_toNat _ _ _, rfl⟩

/-- Settles O38: the advance of what is no jump (`exec_ip_of_not_jump`), and each jump by its condition. -/
theorem ipAdvanceLaw : Obligations.IpAdvanceLaw := by
  intro i s t _ h hrun
  refine ⟨exec_ip_of_not_jump h hrun, ?_, ?_, ?_, ?_, ?_, ?_, ?_, ?_⟩
  · rintro rel rfl hz
    cases h
    exact State.ip_jumpShortIf_of_not_taken rel hz
  · rintro rel rfl hz
    cases h
    exact State.ip_jumpShortIf_of_not_taken rel (congrArg not hz)
  · rintro rel rfl hcx
    cases h
    exact State.ip_jumpShortIf_of_not_taken rel (beq_eq_false_iff_ne.mpr hcx)
  · rintro rel rfl hz
    cases h
    exact State.ip_jumpShortIf_of_taken rel hz
  · rintro rel rfl hz
    cases h
    exact State.ip_jumpShortIf_of_taken rel (congrArg not hz)
  · rintro rel rfl hcx
    cases h
    exact State.ip_jumpShortIf_of_taken rel (beq_iff_eq.mpr hcx)
  · rintro rel rfl
    cases h
    rfl
  · rintro off seg rfl
    cases h
    exact ⟨rfl, rfl⟩

/-- Settles O41: the arms that read or write memory have a memory operand; every other arm passes it on. -/
theorem registerFormsIgnoreMemory : Obligations.RegisterFormsIgnoreMemory := by
  intro i s m h
  cases i with
  | jzRel8 | jnzRel8 | jcxzRel8 =>
    simp only [exec, execJzRel8, execJnzRel8, execJcxzRel8, State.jumpShortIf_eq]
    rfl
  | xchgRm16R16 rm r | movR8Rm8 r rm | movR16Rm16 r rm =>
    cases rm with
    | reg q => rfl
    | mem ea => cases h
  | movRm16Sreg rm f | movSregRm16 f rm =>
    cases rm with
    | reg q =>
      simp only [exec, execMovRm16Sreg, execMovSregRm16]
      cases SReg.ofField f <;> rfl
    | mem ea => cases h
  | movAlDisp8 | movAxDisp16 | movDisp8Al | movDisp16Ax => cases h
  | _ => rfl

/-- Settles O3: each list is the bytes of its instruction, and 0F has no row. -/
theorem sampleWordsDecode : Obligations.SampleWordsDecode := by
  refine ⟨?_, ?_, ?_, ?_, ?_, rfl⟩
  · exact decodeOfEncode (.movR8Imm8 .al 0x2A) [] rfl
  · exact decodeOfEncode (.jmpFar 0x1000 0x2000) [] rfl
  · exact decodeOfEncode (.xchgRm16R16 (.reg .ax) .bx) [] rfl
  · exact decodeOfEncode (.movR16Rm16 .ax (.mem (.disp8 .bp 0xFE))) [] rfl
  · exact decodeOfEncode (.movR8Rm8 .ah (.mem (.direct 0x0100))) [] rfl

/-- Settles O6: the number of a register is its place in its file, and a view is a byte of its parent. -/
theorem registerNumbering : Obligations.RegisterNumbering := by
  intro s f
  refine ⟨by rw [s.r16_eq_getD, Reg16.field_ofField], ?_, ?_⟩
  · rw [s.r8_toNat]
    split_ifs with hhigh hf hf
    · simp [(low_view_ofField f hf).1] at hhigh
    · rw [(high_view_ofField f hf).2]
    · rw [(low_view_ofField f hf).2]
    · exact absurd (high_view_ofField f hf).1 hhigh
  · split_ifs with hf
    · exact s.map_seg_ofField hf
    · rw [(SReg.ofField_eq_none f).mpr (by omega), Option.map_none]

/-- Settles O22: the record keeps the ModR/M byte of the operand with that `reg` field. -/
theorem segmentFieldFatal : Obligations.SegmentFieldFatal := by
  intro s f rm hf
  have hnone : SReg.ofField f = none := (SReg.ofField_eq_none f).mpr hf
  exact ⟨rm.modrmByte Reg16.field f, regField_modrmByte _ _ _, _, exec_movRm16Sreg_of_none hnone rm s,
    exec_movSregRm16_of_none hnone rm s, rfl, rfl, framed_raiseFatal _ _ _⟩

end Sys2Proof.Safety
end

section
/-! SUPPORT. What a write of one operand followed by the advance of IP does: to a view, a general register, a segment register, a
byte or a word of memory (spec/40_mov.md, spec/30_encoding.md R84, R86). -/

namespace Sys2Proof

/-- Zero extension keeps the number of a byte. -/
theorem zext16_eq_ofNat (b : Byte) : zext16 b = BitVec.ofNat 16 b.toNat := (BitVec.ofNat_toNat 16 b).symm

/-- The low three bits of a byte in numbers, for the `+r` bits of an opcode (spec/30_encoding.md R77). -/
theorem ofNat_toNat_eq_rmField : ∀ b : Byte, BitVec.ofNat 3 b.toNat = rmField b := by decide

/-- A byte whose upper five bits are `op` is `op` with its low three bits (spec/30_encoding.md R77). -/
theorem eq_append_rmField {b : Byte} {op : BitVec 5} (h : b.toNat / 8 = op.toNat) : b = op ++ rmField b := by
  have hop : b.extractLsb' 3 5 = op := by
    apply BitVec.eq_of_toNat_eq
    rw [← h, BitVec.extractLsb'_toNat, Nat.shiftRight_eq_div_pow]
    exact Nat.mod_eq_of_lt (Nat.div_lt_of_lt_mul b.isLt)
  rw [← hop]
  exact (opcode_fields b).symm

/-- The opcode bytes B0 to B7 (spec/40_mov.md R104). -/
theorem decode_movR8Imm8 {c : CodeView} (h : c.byte0.toNat / 8 = 0x16) :
    decode c = .ok (.movR8Imm8 (Reg8.ofField (rmField c.byte0)) c.byte1) := by
  have hrow := find_movR8Imm8 (Reg8.ofField (rmField c.byte0))
  rw [Reg8.field_ofField] at hrow
  exact decode_of_find (eq_append_rmField (op := 0b10110) h) hrow rfl

/-- The opcode bytes B8 to BF (spec/40_mov.md R105). -/
theorem decode_movR16Imm16 {c : CodeView} (h : c.byte0.toNat / 8 = 0x17) :
    decode c = .ok (.movR16Imm16 (Reg16.ofField (rmField c.byte0)) c.word1) := by
  have hrow := find_movR16Imm16 (Reg16.ofField (rmField c.byte0))
  rw [Reg16.field_ofField] at hrow
  exact decode_of_find (eq_append_rmField (op := 0b10111) h) hrow rfl

end Sys2Proof

namespace Sys2Proof.Safety

open Sys2Proof.Machine

/-- IP is in no frame, so its advance changes nothing that a frame speaks of. -/
theorem framed_advance (s : State) (n : Nat) : Framed [] s (s.advance n) :=
  framed_of_fields (fun r _ => s.r16_advance n r) (fun r _ => s.seg_advance n r)
    (fun f _ => congrArg (flag · f) (s.flags_advance n)) (fun _ => rfl) (fun _ => rfl) (fun _ => ⟨rfl, rfl⟩) (fun _ => rfl)
    (fun _ => rfl) ⟨rfl, rfl, rfl, rfl, rfl⟩

/-- A frame is kept by the advance of IP. -/
theorem Framed.advance {w : List Part} {s t : State} (h : Framed w s t) (n : Nat) : Framed w s (t.advance n) := by
  simpa using h.trans (framed_advance t n)

/-- A write of a segment register changes that register alone. -/
theorem framed_setSeg (s : State) (r : SReg) (v : Word) : Framed [.seg r] s (s.setSeg r v) := by
  refine framed_of_fields (fun q _ => s.r16_setSeg r v q) (fun q hq => ?_)
    (fun f _ => congrArg (flag · f) (s.flags_setSeg r v)) (fun _ => rfl) (fun _ => rfl) (fun _ => ⟨rfl, rfl⟩) (fun _ => rfl)
    (fun _ => rfl) ⟨rfl, rfl, rfl, rfl, rfl⟩
  have hne : q ≠ r := by simpa using hq
  rw [State.seg_setSeg, if_neg hne]

/-- Another data memory is a change of memory alone. -/
theorem framed_withMem (s : State) (m : Memory) : Framed [.mem] s (withMem m s) :=
  framed_of_fields (fun _ _ => rfl) (fun _ _ => rfl) (fun _ _ => rfl) (fun _ => rfl)
    (fun h => absurd (List.mem_singleton_self _) h) (fun _ => ⟨rfl, rfl⟩) (fun _ => rfl) (fun _ => rfl)
    ⟨rfl, rfl, rfl, rfl, rfl⟩

theorem framed_setByteAt (s : State) (a : Linear) (v : Byte) : Framed [.mem] s (s.setByteAt a v) := framed_withMem s _

theorem framed_setWordAt (s : State) (a : Linear) (v : Word) : Framed [.mem] s (s.setWordAt a v) := framed_withMem s _

/-- An instruction of `n` bytes that writes one view. -/
theorem setR8_advance (s : State) (r : Reg8) (v : Byte) (n : Nat) :
    ((s.setR8 r v).advance n).r8 r = v ∧ (∀ q, q ≠ r → ((s.setR8 r v).advance n).r8 q = s.r8 q) ∧
      Framed [.gpr (parent8 r)] s ((s.setR8 r v).advance n) ∧ ((s.setR8 r v).advance n).ip = s.ip + BitVec.ofNat 16 n := by
  refine ⟨?_, fun q hq => ?_, (framed_setR8 s r v).advance n, ?_⟩
  · rw [State.r8_advance, State.r8_setR8, if_pos rfl]
  · rw [State.r8_advance, State.r8_setR8, if_neg hq]
  · rw [State.ip_advance, State.ip_setR8]

/-- An instruction of `n` bytes that writes one general register. -/
theorem setR16_advance (s : State) (r : Reg16) (v : Word) (n : Nat) :
    ((s.setR16 r v).advance n).r16 r = v ∧ Framed [.gpr r] s ((s.setR16 r v).advance n) ∧
      ((s.setR16 r v).advance n).ip = s.ip + BitVec.ofNat 16 n := by
  refine ⟨?_, (framed_setR16 s r v).advance n, ?_⟩
  · rw [State.r16_advance, State.r16_setR16, if_pos rfl]
  · rw [State.ip_advance, State.ip_setR16]

/-- An instruction of `n` bytes that writes one segment register. -/
theorem setSeg_advance (s : State) (r : SReg) (v : Word) (n : Nat) :
    ((s.setSeg r v).advance n).seg r = v ∧ Framed [.seg r] s ((s.setSeg r v).advance n) ∧
      ((s.setSeg r v).advance n).ip = s.ip + BitVec.ofNat 16 n := by
  refine ⟨?_, (framed_setSeg s r v).advance n, ?_⟩
  · rw [State.seg_advance, State.seg_setSeg, if_pos rfl]
  · rw [State.ip_advance, State.ip_setSeg]

/-- An instruction of `n` bytes that stores one byte. -/
theorem setByteAt_advance (s : State) (l : Linear) (v : Byte) (n : Nat) :
    (∀ a, ((s.setByteAt l v).advance n).byteAt a = if a = l then v else s.byteAt a) ∧
      Framed [.mem] s ((s.setByteAt l v).advance n) ∧ ((s.setByteAt l v).advance n).ip = s.ip + BitVec.ofNat 16 n :=
  ⟨fun a => s.byteAt_setByteAt l v a, (framed_setByteAt s l v).advance n, rfl⟩

/-- An instruction of `n` bytes that stores one word. The two bytes have different addresses, so their order does not matter. -/
theorem setWordAt_advance (s : State) (l : Linear) (v : Word) (n : Nat) :
    (∀ a, ((s.setWordAt l v).advance n).byteAt a =
        if a = l then lo8 v else if a = l + 1 then hi8 v else s.byteAt a) ∧
      Framed [.mem] s ((s.setWordAt l v).advance n) ∧ ((s.setWordAt l v).advance n).ip = s.ip + BitVec.ofNat 16 n := by
  refine ⟨fun a => ?_, (framed_setWordAt s l v).advance n, rfl⟩
  rw [State.byteAt_advance, State.byteAt_setWordAt]
  rcases eq_or_ne a l with rfl | ha
  · have hne : a ≠ a + 1 := (linear_succ_ne a).symm
    rw [if_neg hne, if_pos rfl, if_pos rfl]
  · rw [if_neg ha, if_neg ha]

end Sys2Proof.Safety
end

section
/-! The obligations on data movement (spec/40_mov.md). -/

namespace Sys2Proof.Safety

open Sys2Proof.Machine

/-- Settles O19: each arm writes the value read through the operand's place; that value is taken form by form. -/
theorem movToRegister : Obligations.MovToRegister := by
  refine ⟨fun c h => decode_of_find h rfl rfl, fun c h => decode_of_find h rfl rfl, fun s r rm => ?_, fun s r rm => ?_⟩
  · obtain ⟨hval, hother, hframe, hip⟩ := setR8_advance s r (s.readPlace8 (s.place rm)) (1 + rm.total)
    exact ⟨_, rfl, hval.trans (by cases rm <;> rfl), hother, hframe, hip⟩
  · obtain ⟨hval, hframe, hip⟩ := setR16_advance s r (s.readPlace16 (s.place rm)) (1 + rm.total)
    exact ⟨_, rfl, hval.trans (by cases rm <;> rfl), hframe, hip⟩

/-- Settles O16: AL gets the byte, which keeps AH, the other view of AX; AX gets the word. -/
theorem movDirectLoads : Obligations.MovDirectLoads := by
  refine ⟨fun c h => decode_of_find h rfl rfl, fun c h => decode_of_find h rfl rfl, fun s d => ?_, fun s d => ?_⟩
  · rw [← zext16_eq_ofNat]
    obtain ⟨hval, hother, hframe, hip⟩ := setR8_advance s .al (s.byteAt (s.directAddr (zext16 d))) 2
    exact ⟨_, rfl, hval, hother .ah (by decide), hframe, hip⟩
  · exact ⟨_, rfl, setR16_advance s .ax (s.wordAt (s.directAddr d)) 3⟩

/-- Settles O17: a store of AL, and a store of AX, whose low byte is AL and whose high byte is AH. -/
theorem movDirectStores : Obligations.MovDirectStores := by
  refine ⟨fun c h => decode_of_find h rfl rfl, fun c h => decode_of_find h rfl rfl, fun s d => ?_, fun s d => ?_⟩
  · rw [← zext16_eq_ofNat]
    exact ⟨_, rfl, setByteAt_advance s (s.directAddr (zext16 d)) (s.r8 .al) 2⟩
  · exact ⟨_, rfl, setWordAt_advance s (s.directAddr d) (s.r16 .ax) 3⟩

/-- Settles O18: the opcode's upper five bits choose the row, its lower three the register; the arms are one register write. -/
theorem movImmediates : Obligations.MovImmediates := by
  refine ⟨fun c h => ?_, fun c h => ?_, fun s r v => ⟨_, rfl, setR8_advance s r v 2⟩,
    fun s r v => ⟨_, rfl, setR16_advance s r v 3⟩⟩
  · rw [ofNat_toNat_eq_rmField]
    exact decode_movR8Imm8 h
  · rw [ofNat_toNat_eq_rmField]
    exact decode_movR16Imm16 h

/-- Settles O20: the operand's place is a register or a word of memory, and the selector is written to it. -/
theorem movFromSegment : Obligations.MovFromSegment := by
  refine ⟨fun c h => decode_of_find h rfl rfl, fun s f sr hf => ⟨fun q => ?_, fun ea => ?_⟩⟩
  · exact ⟨_, exec_movRm16Sreg_of_some hf (.reg q) s, setR16_advance s q (s.seg sr) 2⟩
  · have hlen : 2 + ea.dispBytes = 1 + (RM.mem ea : RM Reg16).total := Nat.add_assoc 1 1 _
    rw [hlen]
    exact ⟨_, exec_movRm16Sreg_of_some hf (.mem ea) s, setWordAt_advance s (s.eaLinear ea) (s.seg sr) _⟩

/-- Settles O21: the arm is one segment register write, the same for CS as for the others. -/
theorem movToSegment : Obligations.MovToSegment := by
  refine ⟨fun c h => decode_of_find h rfl rfl, fun s f sr rm hf => ?_⟩
  obtain ⟨hval, hframe, hip⟩ := setSeg_advance s sr (s.readPlace16 (s.place rm)) (1 + rm.total)
  exact ⟨_, exec_movSregRm16_of_some hf rm s, hval.trans (by cases rm <;> rfl), hframe, hip⟩

end Sys2Proof.Safety
end

section
/-! SUPPORT. A write of IP and its frame; the targets of the relative jumps as signed integers modulo 2^16
(spec/41_control_transfer.md R121, R125). -/

namespace Sys2Proof

open Sys2Proof.Safety (signed8 signed16)

/-- Sign extension keeps the signed value of a byte. -/
theorem signed16_sext16 (rel : Byte) : signed16 (sext16 rel) = signed8 rel := by
  have hrel := rel.isLt
  rw [signed16, sext16_toNat, signed8]
  split_ifs <;> omega

/-- Adding a word modulo 2^16 is adding its signed value, after a length as well: the two additions wrap together
(spec/41_control_transfer.md R121). -/
theorem toNat_add_add_signed16 (a len rel : Word) :
    ((a + len + rel).toNat : Int) = ((a.toNat : Int) + len.toNat + signed16 rel) % 65536 := by
  rw [BitVec.toNat_add, BitVec.toNat_add, signed16]
  split_ifs <;> omega

end Sys2Proof

namespace Sys2Proof.Safety

open Sys2Proof.Machine

/-- IP is in no frame, so a write of it changes nothing that a frame speaks of. -/
theorem framed_setIp (s : State) (v : Word) : Framed [] s (s.setIp v) :=
  framed_of_fields (fun r _ => s.r16_setIp v r) (fun r _ => s.seg_setIp v r)
    (fun f _ => congrArg (flag · f) (s.flags_setIp v)) (fun _ => rfl) (fun _ => rfl) (fun _ => ⟨rfl, rfl⟩) (fun _ => rfl)
    (fun _ => rfl) ⟨rfl, rfl, rfl, rfl, rfl⟩

theorem framed_jumpShortIf (s : State) (taken : Bool) (rel : Byte) : Framed [] s (s.jumpShortIf taken rel) := by
  rw [State.jumpShortIf_eq]
  exact framed_setIp s _

/-- A short jump in numbers: the length, and the signed offset when it is taken (spec/41_control_transfer.md R125). -/
theorem ip_jumpShortIf_toNat (s : State) (taken : Bool) (rel : Byte) :
    ((s.jumpShortIf taken rel).ip.toNat : Int) =
      ((s.ip.toNat : Int) + 2 + if taken then signed8 rel else 0) % 65536 := by
  cases taken with
  | true =>
    rw [State.ip_jumpShortIf_of_taken rel rfl, toNat_add_add_signed16, signed16_sext16, if_pos rfl]
    rfl
  | false =>
    rw [State.ip_jumpShortIf_of_not_taken rel rfl, BitVec.toNat_add, if_neg Bool.false_ne_true, add_zero]
    rfl

end Sys2Proof.Safety
end

section
/-! The obligations on control transfer (spec/41_control_transfer.md). -/

namespace Sys2Proof.Safety

open Sys2Proof.Machine

/-- Settles O23: the arm writes CS, then IP, and neither write is seen by the other. -/
theorem jmpFarLoadsCsIp : Obligations.JmpFarLoadsCsIp := by
  refine ⟨fun c h => decode_of_find h rfl rfl, fun s off seg => ⟨_, rfl, ?_, ?_, ?_⟩⟩
  · rw [State.seg_setIp, State.seg_setSeg, if_pos rfl]
  · exact State.ip_setIp _ off
  · exact (framed_setSeg s .cs seg).trans (framed_setIp _ off)

/-- Settles O24: adding the offset's 16 bits is adding its signed value. -/
theorem jmpNearIsRelative : Obligations.JmpNearIsRelative :=
  ⟨fun _ h => decode_of_find h rfl rfl, fun s rel =>
    ⟨_, rfl, toNat_add_add_signed16 s.ip 3 rel, framed_setIp s (s.ip + 3 + rel)⟩⟩

/-- Settles O25: each arm is one short jump, with the condition of its rule. -/
theorem conditionalJumps : Obligations.ConditionalJumps := by
  refine ⟨fun c h => decode_of_find h rfl rfl, fun c h => decode_of_find h rfl rfl, fun c h => decode_of_find h rfl rfl,
    fun s rel => ⟨_, rfl, framed_jumpShortIf s _ rel, ?_⟩, fun s rel => ⟨_, rfl, framed_jumpShortIf s _ rel, ?_⟩,
    fun s rel => ⟨_, rfl, framed_jumpShortIf s _ rel, ?_⟩⟩
  · exact ip_jumpShortIf_toNat s (flag s.flags .zf) rel
  · have hcond : (if (!flag s.flags .zf) = true then signed8 rel else 0) = if flag s.flags .zf then 0 else signed8 rel := by
      cases flag s.flags .zf <;> rfl
    rw [← hcond]
    exact ip_jumpShortIf_toNat s (!flag s.flags .zf) rel
  · have hcx : ((s.r16 .cx == 0) = true) = ((s.r16 .cx).toNat = 0) := by
      rw [beq_iff_eq, ← BitVec.toNat_inj]
      rfl
    simpa only [hcx] using ip_jumpShortIf_toNat s (s.r16 .cx == 0) rel

end Sys2Proof.Safety
end

section
/-! SUPPORT. A write of the flags and its frame: alone, and followed by the advance of IP (spec/42_flag_control.md R130, R131). -/

namespace Sys2Proof.Safety

open Sys2Proof.Machine

/-- A write of the flags is in the frame of every list that names each flag whose value it changes. -/
theorem framed_setFlags {w : List Part} {s : State} {v : Flags}
    (hkept : ∀ f, Part.flag f ∉ w → flag v f = flag s.flags f) : Framed w s (s.setFlags v) :=
  framed_of_fields (fun r _ => s.r16_setFlags v r) (fun r _ => s.seg_setFlags v r) hkept (fun _ => rfl) (fun _ => rfl)
    (fun _ => ⟨rfl, rfl⟩) (fun _ => rfl) (fun _ => rfl) ⟨rfl, rfl, rfl, rfl, rfl⟩

/-- An instruction of `n` bytes that writes flags, those that `w` names at most. -/
theorem setFlags_advance {w : List Part} {s : State} {v : Flags}
    (hkept : ∀ f, Part.flag f ∉ w → flag v f = flag s.flags f) (n : Nat) :
    ((s.setFlags v).advance n).flags = v ∧ Framed w s ((s.setFlags v).advance n) ∧
      ((s.setFlags v).advance n).ip = s.ip + BitVec.ofNat 16 n := by
  refine ⟨?_, (framed_setFlags hkept).advance n, ?_⟩
  · rw [State.flags_advance, State.flags_setFlags]
  · rw [State.ip_advance, State.ip_setFlags]

/-- Clearing IF keeps every other flag. -/
theorem flag_clear_iF (v : Flags) (f : FlagName) (hf : f ≠ .iF) : flag { v with iF := false } f = flag v f := by
  cases f with
  | iF => exact absurd rfl hf
  | _ => rfl

/-- Clearing DF keeps every other flag. -/
theorem flag_clear_df (v : Flags) (f : FlagName) (hf : f ≠ .df) : flag { v with dF := false } f = flag v f := by
  cases f with
  | df => exact absurd rfl hf
  | _ => rfl

end Sys2Proof.Safety
end

section
/-! The obligations on flag control (spec/42_flag_control.md). -/

namespace Sys2Proof.Safety

open Sys2Proof.Machine

/-- Settles O26: the arm is one write of the flags, which clears IF and keeps the others. -/
theorem cliClearsInterruptFlag : Obligations.CliClearsInterruptFlag := by
  refine ⟨fun c h => decode_of_find h rfl rfl, fun s => ?_⟩
  obtain ⟨hflags, hframe, hip⟩ := setFlags_advance (w := [.flag .iF]) (s := s) (v := { s.flags with iF := false })
    (fun f hf => flag_clear_iF s.flags f (by simpa using hf)) 1
  exact ⟨_, rfl, congrArg (flag · .iF) hflags, hframe, hip⟩

/-- Settles O27: the arm is one write of the flags, which clears DF and keeps the others. -/
theorem cldClearsDirectionFlag : Obligations.CldClearsDirectionFlag := by
  refine ⟨fun c h => decode_of_find h rfl rfl, fun s => ?_⟩
  obtain ⟨hflags, hframe, hip⟩ := setFlags_advance (w := [.flag .df]) (s := s) (v := { s.flags with dF := false })
    (fun f hf => flag_clear_df s.flags f (by simpa using hf)) 1
  exact ⟨_, rfl, congrArg (flag · .df) hflags, hframe, hip⟩

end Sys2Proof.Safety
end

section
/-! SUPPORT. The flags of CMP and of TEST in numbers, and what each of the two instructions does (spec/43_alu.md R135 to R137). -/

namespace Sys2Proof.Machine

/-- Bit 7 of a byte in numbers: it tells the upper half of the range. -/
theorem getLsbD_seven_iff {r : Byte} : r.getLsbD 7 = true ↔ 128 ≤ r.toNat := by
  have hr := r.isLt
  rw [← BitVec.testBit_toNat, Nat.testBit_eq_decide_div_mod_eq, decide_eq_true_iff]
  omega

theorem signOf_iff {r : Byte} : signOf r = true ↔ 128 ≤ r.toNat := getLsbD_seven_iff

theorem zeroOf_iff {r : Byte} : zeroOf r = true ↔ r.toNat = 0 := by
  rw [zeroOf, beq_iff_eq, ← BitVec.toNat_inj]
  rfl

theorem parityOf_iff {r : Byte} :
    parityOf r = true ↔ ((List.range 8).filter fun k => r.toNat.testBit k).length % 2 = 0 := by
  rw [parityOf, beq_iff_eq, List.countP_eq_length_filter]
  rfl

/-- The 8-bit subtraction wraps (spec/43_alu.md R138 b). -/
theorem toNat_sub_byte (a b : Byte) : (a - b).toNat = (a.toNat + 256 - b.toNat) % 256 := by
  have hb := b.isLt
  rw [BitVec.toNat_sub]
  omega

end Sys2Proof.Machine

namespace Sys2Proof.Safety

open Sys2Proof.Machine

/-- The next draw of a bit changes the count of draws alone. -/
theorem framed_drawBit (s : State) : Framed [.draws] s s.drawBit.2 :=
  framed_of_fields (fun _ _ => rfl) (fun _ _ => rfl) (fun _ _ => rfl) (fun _ => rfl) (fun _ => rfl) (fun _ => ⟨rfl, rfl⟩)
    (fun h => absurd (List.mem_singleton_self _) h) (fun _ => rfl) ⟨rfl, rfl, rfl, rfl, rfl⟩

section
variable (f : Flags) (a b : Byte)

theorem cmpFlags_zf_iff : flag (cmpFlags f a b) .zf = true ↔ a = b := beq_iff_eq

theorem cmpFlags_cf_iff : flag (cmpFlags f a b) .cf = true ↔ a.toNat < b.toNat := decide_eq_true_iff

theorem cmpFlags_af_iff : flag (cmpFlags f a b) .af = true ↔ a.toNat % 16 < b.toNat % 16 := decide_eq_true_iff

theorem cmpFlags_sf_iff : flag (cmpFlags f a b) .sf = true ↔ 128 ≤ (a.toNat + 256 - b.toNat) % 256 := by
  rw [← toNat_sub_byte]
  exact signOf_iff

theorem cmpFlags_pf_iff : flag (cmpFlags f a b) .pf = true ↔
    ((List.range 8).filter fun k => ((a.toNat + 256 - b.toNat) % 256).testBit k).length % 2 = 0 := by
  rw [← toNat_sub_byte]
  exact parityOf_iff

/-- OF by its rule: the operands' signs differ, and the result's sign is not that of AL. -/
theorem cmpFlags_oF_iff_signs : flag (cmpFlags f a b) .oF = true ↔
    ¬(128 ≤ a.toNat ↔ 128 ≤ b.toNat) ∧ ¬(128 ≤ (a.toNat + 256 - b.toNat) % 256 ↔ 128 ≤ a.toNat) := by
  simp only [← toNat_sub_byte, ← getLsbD_seven_iff, ← Bool.eq_iff_iff]
  exact Bool.and_eq_true_iff.trans (and_congr bne_iff_ne bne_iff_ne)

/-- OF as the spec glosses it: the signed difference does not fit in 8 bits (spec/43_alu.md R136). -/
theorem cmpFlags_oF_iff : flag (cmpFlags f a b) .oF = true ↔ signed8 a - signed8 b < -128 ∨ 127 < signed8 a - signed8 b := by
  have ha := a.isLt
  have hb := b.isLt
  rw [cmpFlags_oF_iff_signs, signed8, signed8]
  split_ifs <;> omega

/-- The signed order (spec/43_alu.md R138 f): the result's sign is that of the signed difference, unless that overflows. -/
theorem signed8_lt_iff_cmpFlags : signed8 a < signed8 b ↔ flag (cmpFlags f a b) .sf ≠ flag (cmpFlags f a b) .oF := by
  have ha := a.isLt
  have hb := b.isLt
  rw [ne_eq, Bool.eq_iff_iff, cmpFlags_sf_iff, cmpFlags_oF_iff, signed8, signed8]
  split_ifs <;> omega

/-- The unsigned order (spec/43_alu.md R138 f). -/
theorem toNat_lt_iff_cmpFlags :
    b.toNat < a.toNat ↔ flag (cmpFlags f a b) .zf = false ∧ flag (cmpFlags f a b) .cf = false := by
  rw [← Bool.not_eq_true, ← Bool.not_eq_true, cmpFlags_zf_iff, cmpFlags_cf_iff, ← BitVec.toNat_inj]
  omega

end

/-- CMP AL, imm8: two bytes, the flags of AL minus the immediate, at most six of them changed. -/
theorem exec_cmpAlImm8_spec (s : State) (b : Byte) : ∃ t, exec (.cmpAlImm8 b) s = .next t ∧
    t.flags = cmpFlags s.flags (s.r8 .al) b ∧
    Framed [.flag .zf, .flag .cf, .flag .sf, .flag .oF, .flag .pf, .flag .af] s t ∧ t.ip = s.ip + 2 := by
  refine ⟨_, rfl, setFlags_advance (fun f hf => ?_) 2⟩
  obtain ⟨htf, hif, hdf⟩ := cmpFlags_kept s.flags (s.r8 .al) b
  cases f with
  | tf => exact htf
  | iF => exact hif
  | df => exact hdf
  | _ => simp at hf

/-- TEST AL, imm8: two bytes, one draw, the flags of AL AND the immediate with AF from the draw, at most six of them changed. The
draw is not seen by the flags, nor the flags by the draw: the order of the two writes does not matter. -/
theorem exec_testAlImm8_spec (s : State) (b : Byte) : ∃ t af, exec (.testAlImm8 b) s = .next t ∧
    t.flags = testFlags s.flags (s.r8 .al) b af ∧
    Framed [.flag .sf, .flag .zf, .flag .pf, .flag .cf, .flag .oF, .flag .af, .draws] s t ∧ t.ip = s.ip + 2 := by
  have hkept : ∀ f, Part.flag f ∉ [.flag .sf, .flag .zf, .flag .pf, .flag .cf, .flag .oF, .flag .af] →
      flag (testFlags s.flags (s.r8 .al) b s.drawBit.1) f = flag s.flags f := by
    intro f hf
    obtain ⟨htf, hif, hdf, -⟩ := testFlags_kept s.flags (s.r8 .al) b s.drawBit.1
    cases f with
    | tf => exact htf
    | iF => exact hif
    | df => exact hdf
    | _ => simp at hf
  refine ⟨_, s.drawBit.1, rfl, ?_, ((framed_setFlags hkept).trans (framed_drawBit _)).advance 2, ?_⟩
  · rw [State.flags_advance, State.flags_setFlags]
  · rw [State.ip_advance, State.ip_setFlags, State.ip_drawBit]
    rfl

end Sys2Proof.Safety
end

section
/-! The obligations on the ALU (spec/43_alu.md). -/

namespace Sys2Proof.Safety

open Sys2Proof.Machine

/-- Settles O28: the arm is one write of the flags of the subtraction; each flag is read in integers. -/
theorem cmpSetsSixFlags : Obligations.CmpSetsSixFlags := by
  refine ⟨fun c h => decode_of_find h rfl rfl, fun s b => ?_⟩
  obtain ⟨t, hexec, hflags, hframe, hip⟩ := exec_cmpAlImm8_spec s b
  refine ⟨t, hexec, ?_⟩
  rw [hflags]
  exact ⟨cmpFlags_zf_iff .., cmpFlags_cf_iff .., cmpFlags_sf_iff .., cmpFlags_oF_iff .., cmpFlags_pf_iff ..,
    cmpFlags_af_iff .., hframe, hip⟩

/-- Settles O29: both orders are read from the flags of the subtraction; equal bytes are not below each other. -/
theorem cmpOrdersItsOperands : Obligations.CmpOrdersItsOperands := by
  intro s t b h
  obtain ⟨u, hexec, hflags, -⟩ := exec_cmpAlImm8_spec s b
  obtain rfl : t = u := Host.Outcome.next.inj (h.symm.trans hexec)
  rw [hflags]
  refine ⟨signed8_lt_iff_cmpFlags .., toNat_lt_iff_cmpFlags .., fun ⟨hzf, hcf⟩ => ?_⟩
  rw [cmpFlags_zf_iff] at hzf
  rw [cmpFlags_cf_iff, hzf] at hcf
  exact Nat.lt_irrefl _ hcf

/-- Settles O30: the arm draws AF and writes the flags of the AND; AF is in the frame, and nothing is said of its value. -/
theorem testSetsFlags : Obligations.TestSetsFlags := by
  refine ⟨fun c h => decode_of_find h rfl rfl, fun s b => ?_⟩
  obtain ⟨t, af, hexec, hflags, hframe, hip⟩ := exec_testAlImm8_spec s b
  obtain ⟨-, -, -, hcf, hof, -⟩ := testFlags_kept s.flags (s.r8 .al) b af
  refine ⟨t, hexec, ?_⟩
  rw [hflags, ← BitVec.toNat_and]
  exact ⟨signOf_iff, zeroOf_iff, parityOf_iff, hcf, hof, hframe, hip⟩

end Sys2Proof.Safety
end

section
/-! SUPPORT. Port accesses and their frames, and what an instruction that reads a port into AL or AX, or writes one of them to a
port, does before IP advances (spec/44_io.md R145 to R152). -/

namespace Sys2Proof.Safety

open Sys2Proof.Machine

/-- Other port bytes and another record of accesses are a change of the ports alone. -/
theorem framed_withPorts (s : State) (ports : Memory) (es : List PortEvent) :
    Framed [.ports] s { s with ports := ports, portEvents := es } :=
  framed_of_fields (fun _ _ => rfl) (fun _ _ => rfl) (fun _ _ => rfl) (fun _ => rfl) (fun _ => rfl)
    (fun h => absurd (List.mem_singleton_self _) h) (fun _ => rfl) (fun _ => rfl) ⟨rfl, rfl, rfl, rfl, rfl⟩

theorem framed_record (s : State) (e : PortEvent) : Framed [.ports] s (s.record e) := framed_withPorts s _ _

theorem framed_portWrite8 (s : State) (p : Word) (v : Byte) : Framed [.ports] s (s.portWrite8 p v) := framed_withPorts s _ _

variable (s : State) (p : Word) (n : Nat)

/-- An instruction of `n` bytes that reads an 8-bit port into AL. The record does not see the register, so the frame may take the
register write first. -/
theorem portRead8_setAl_advance {t : State} (ht : t = ((s.portRead8 p).2.setR8 .al (s.portRead8 p).1).advance n) :
    t.r8 .al = s.portAt p ∧ t.r8 .ah = s.r8 .ah ∧ (∀ q, t.portAt q = s.portAt q) ∧
      t.portEvents = s.portEvents ++ [.read8 p (s.portAt p)] ∧ Framed [.gpr .ax, .ports] s t ∧
      t.ip = s.ip + BitVec.ofNat 16 n := by
  subst ht
  obtain ⟨hal, hother, -, hip⟩ := setR8_advance (s.portRead8 p).2 .al (s.portRead8 p).1 n
  have hframe := (framed_setR8 s .al (s.portAt p)).trans (framed_record _ (.read8 p (s.portAt p)))
  exact ⟨hal, hother .ah (by decide), fun _ => rfl, rfl, hframe.advance n, hip⟩

/-- An instruction of `n` bytes that reads a 16-bit port into AX, whose views are the bytes of the two ports. -/
theorem portRead16_setAx_advance {t : State} (ht : t = ((s.portRead16 p).2.setR16 .ax (s.portRead16 p).1).advance n) :
    t.r8 .al = s.portAt p ∧ t.r8 .ah = s.portAt (p + 1) ∧ (∀ q, t.portAt q = s.portAt q) ∧
      t.portEvents = s.portEvents ++ [.read16 p (t.r16 .ax)] ∧ Framed [.gpr .ax, .ports] s t ∧
      t.ip = s.ip + BitVec.ofNat 16 n := by
  subst ht
  obtain ⟨hax, -, hip⟩ := setR16_advance (s.portRead16 p).2 .ax (s.portRead16 p).1 n
  have hframe := (framed_setR16 s .ax (s.portWordAt p)).trans (framed_record _ (.read16 p (s.portWordAt p)))
  refine ⟨?_, ?_, fun _ => rfl, ?_, hframe.advance n, hip⟩
  · exact (congrArg lo8 hax).trans (lo8_word _ _)
  · exact (congrArg hi8 hax).trans (hi8_word _ _)
  · rw [hax]
    rfl

/-- An instruction of `n` bytes that writes an 8-bit port. -/
theorem portWrite8_advance (v : Byte) :
    (∀ q, ((s.portWrite8 p v).advance n).portAt q = if q = p then v else s.portAt q) ∧
      ((s.portWrite8 p v).advance n).portEvents = s.portEvents ++ [.write8 p v] ∧
      Framed [.ports] s ((s.portWrite8 p v).advance n) ∧ ((s.portWrite8 p v).advance n).ip = s.ip + BitVec.ofNat 16 n :=
  ⟨fun q => s.portAt_portWrite8 p v q, rfl, (framed_portWrite8 s p v).advance n, rfl⟩

/-- An instruction of `n` bytes that writes a 16-bit port. The two port numbers differ, so their order does not matter. -/
theorem portWrite16_advance (v : Word) :
    (∀ q, ((s.portWrite16 p v).advance n).portAt q = if q = p then lo8 v else if q = p + 1 then hi8 v else s.portAt q) ∧
      ((s.portWrite16 p v).advance n).portEvents = s.portEvents ++ [.write16 p v] ∧
      Framed [.ports] s ((s.portWrite16 p v).advance n) ∧ ((s.portWrite16 p v).advance n).ip = s.ip + BitVec.ofNat 16 n := by
  refine ⟨fun q => ?_, rfl, (framed_portWrite16 s p v).advance n, rfl⟩
  rw [State.portAt_advance, State.portAt_portWrite16]
  rcases eq_or_ne q p with rfl | hq
  · have hne : q ≠ q + 1 := fun h => port_succ_ne_toNat q (congrArg BitVec.toNat h.symm)
    rw [if_neg hne, if_pos rfl, if_pos rfl]
  · rw [if_neg hq, if_neg hq]

end Sys2Proof.Safety
end

section
/-! The obligations on the ports (spec/44_io.md). -/

namespace Sys2Proof.Safety

open Sys2Proof.Machine

/-- Settles O31: both arms read one 8-bit port into AL, from the zero-extended immediate and from DX. -/
theorem inByte : Obligations.InByte := by
  refine ⟨fun c h => decode_of_find h rfl rfl, fun c h => decode_of_find h rfl rfl, fun s n => ?_,
    fun s => ⟨_, rfl, portRead8_setAl_advance s (s.r16 .dx) 1 rfl⟩⟩
  rw [← zext16_eq_ofNat]
  exact ⟨_, rfl, portRead8_setAl_advance s (zext16 n) 2 rfl⟩

/-- Settles O32: both arms read one 16-bit port into AX, from the zero-extended immediate and from DX. -/
theorem inWord : Obligations.InWord := by
  refine ⟨fun c h => decode_of_find h rfl rfl, fun c h => decode_of_find h rfl rfl, fun s n => ?_,
    fun s => ⟨_, rfl, portRead16_setAx_advance s (s.r16 .dx) 1 rfl⟩⟩
  rw [← zext16_eq_ofNat]
  exact ⟨_, rfl, portRead16_setAx_advance s (zext16 n) 2 rfl⟩

/-- Settles O33: both arms write AL to one 8-bit port, the zero-extended immediate and DX. -/
theorem outByte : Obligations.OutByte := by
  refine ⟨fun c h => decode_of_find h rfl rfl, fun c h => decode_of_find h rfl rfl, fun s n => ?_,
    fun s => ⟨_, rfl, portWrite8_advance s (s.r16 .dx) 1 (s.r8 .al)⟩⟩
  rw [← zext16_eq_ofNat]
  exact ⟨_, rfl, portWrite8_advance s (zext16 n) 2 (s.r8 .al)⟩

/-- Settles O34: both arms write AX, whose low byte is AL and whose high byte is AH, to one 16-bit port. -/
theorem outWord : Obligations.OutWord := by
  refine ⟨fun c h => decode_of_find h rfl rfl, fun c h => decode_of_find h rfl rfl, fun s n => ?_,
    fun s => ⟨_, rfl, portWrite16_advance s (s.r16 .dx) 1 (s.r16 .ax)⟩⟩
  rw [← zext16_eq_ofNat]
  exact ⟨_, rfl, portWrite16_advance s (zext16 n) 2 (s.r16 .ax)⟩

end Sys2Proof.Safety
end

section
/-! SUPPORT. What an exchange does to a general register and another place before IP advances: both get the other's old value
(spec/45_xchg_nop.md R160, conflict C3). -/

namespace Sys2Proof.Safety

open Sys2Proof.Machine

/-- An instruction of `n` bytes that swaps two general registers. One with itself keeps its value, by either write. -/
theorem swapR16_advance (s : State) (q r : Reg16) (n : Nat) {t : State}
    (ht : t = ((s.setR16 q (s.r16 r)).setR16 r (s.r16 q)).advance n) :
    t.r16 q = s.r16 r ∧ t.r16 r = s.r16 q ∧ Framed [.gpr q, .gpr r] s t ∧ t.ip = s.ip + BitVec.ofNat 16 n := by
  subst ht
  obtain ⟨hr, -, hip⟩ := setR16_advance (s.setR16 q (s.r16 r)) r (s.r16 q) n
  have hframe := (framed_setR16 s q (s.r16 r)).trans (framed_setR16 _ r (s.r16 q))
  refine ⟨?_, hr, hframe.advance n, hip.trans (by rw [State.ip_setR16])⟩
  rcases eq_or_ne q r with rfl | hne
  · exact hr
  · rw [State.r16_advance, State.r16_setR16, if_neg hne, State.r16_setR16, if_pos rfl]

/-- An instruction of `n` bytes that swaps a general register and the word at `l`. Memory does not see the register, so the frame
may take the register write first. -/
theorem swapWordAt_advance (s : State) (l : Linear) (r : Reg16) (n : Nat) {t : State}
    (ht : t = ((s.setWordAt l (s.r16 r)).setR16 r (s.wordAt l)).advance n) :
    t.r16 r = s.wordAt l ∧
      (∀ a, t.byteAt a = if a = l then lo8 (s.r16 r) else if a = l + 1 then hi8 (s.r16 r) else s.byteAt a) ∧
      Framed [.gpr r, .mem] s t ∧ t.ip = s.ip + BitVec.ofNat 16 n := by
  subst ht
  obtain ⟨hreg, -, hip⟩ := setR16_advance (s.setWordAt l (s.r16 r)) r (s.wordAt l) n
  obtain ⟨hmem, -, -⟩ := setWordAt_advance s l (s.r16 r) n
  have hframe := (framed_setR16 s r (s.wordAt l)).trans (framed_setWordAt _ l (s.r16 r))
  exact ⟨hreg, hmem, hframe.advance n, hip⟩

end Sys2Proof.Safety
end

section
/-! The obligations on exchange and no-op (spec/45_xchg_nop.md). -/

namespace Sys2Proof.Safety

open Sys2Proof.Machine

/-- Settles O35: the operand's place is a register or a word of memory, and the arm swaps it with the other register. -/
theorem xchgSwaps : Obligations.XchgSwaps := by
  refine ⟨fun c h => decode_of_find h rfl rfl, fun s r q => ⟨_, rfl, swapR16_advance s q r 2 rfl⟩, fun s r ea => ?_⟩
  have hlen : 2 + ea.dispBytes = 1 + (RM.mem ea : RM Reg16).total := Nat.add_assoc 1 1 _
  rw [hlen]
  exact ⟨_, rfl, swapWordAt_advance s (s.eaLinear ea) r _ rfl⟩

/-- Settles O36: the arm is the advance of IP alone. -/
theorem nopOnlyAdvances : Obligations.NopOnlyAdvances :=
  ⟨fun _ h => decode_of_find h rfl rfl, fun s => ⟨_, rfl, framed_advance s 1, rfl⟩⟩

end Sys2Proof.Safety
end

section
/-! The obligation on the segment-override bytes (spec/46_segment_prefix.md), and what a capture changes before IP advances. -/

namespace Sys2Proof.Safety

open Sys2Proof.Machine

/-- Capturing a selector changes OVR alone. -/
theorem framed_captureOverride (s : State) (r : SReg) : Framed [.ovr] s (s.captureOverride r) :=
  framed_of_fields (fun _ _ => rfl) (fun _ _ => rfl) (fun _ _ => rfl) (fun h => absurd (List.mem_singleton_self _) h)
    (fun _ => rfl) (fun _ => ⟨rfl, rfl⟩) (fun _ => rfl) (fun _ => rfl) ⟨rfl, rfl, rfl, rfl, rfl⟩

/-- An instruction of `n` bytes that captures the selector of a segment register. -/
theorem captureOverride_advance (s : State) (r : SReg) (n : Nat) :
    ((s.captureOverride r).advance n).ovr = { enable := true, selector := s.seg r } ∧
      Framed [.ovr] s ((s.captureOverride r).advance n) ∧
      ((s.captureOverride r).advance n).ip = s.ip + BitVec.ofNat 16 n :=
  ⟨rfl, (framed_captureOverride s r).advance n, rfl⟩

/-- Settles O37: each of the four bytes decodes to an arm that captures its own register's selector and advances IP by 1. -/
theorem overrideBytesCapture : Obligations.OverrideBytesCapture := by
  refine ⟨fun c => ⟨fun h => decode_of_find h rfl rfl, fun h => decode_of_find h rfl rfl, fun h => decode_of_find h rfl rfl,
    fun h => decode_of_find h rfl rfl⟩, fun s => ?_⟩
  simp only [List.forall_mem_cons, List.not_mem_nil, false_imp_iff, implies_true, and_true]
  exact ⟨⟨_, rfl, captureOverride_advance s .es 1⟩, ⟨_, rfl, captureOverride_advance s .cs 1⟩,
    ⟨_, rfl, captureOverride_advance s .ss 1⟩, ⟨_, rfl, captureOverride_advance s .ds 1⟩⟩

end Sys2Proof.Safety
end

section
/-! SUPPORT. One step of the driver (spec/48_step_driver.md R175 to R177): what it does around a decoded instruction, what a
step that completes was, and what the watchdog's halt says of the step before. -/

namespace Sys2Proof.Machine

variable {s t u : State} {i : Instr} {r : HaltRecord}

/-- A halted core has no step (spec/48_step_driver.md R179). -/
theorem step_of_halted (h : s.halt = .halted r) : step s = .fault (.halted r) := by
  simp [step, h]

theorem State.watchdogTrips_iff : s.watchdogTrips = true ↔ s.lastExec = some s.curAddr := beq_iff_eq

theorem isOverrideByte_iff {b : Byte} : isOverrideByte b = true ↔ b ∈ [0x26, 0x2E, 0x36, 0x3E] := by
  simp [isOverrideByte, or_assoc]

/-- The primary opcode byte stands at CS:IP (spec/20_memory.md R46). -/
theorem State.fetch8_zero (s : State) : s.fetch8 0 = s.byteAt s.curAddr := by
  simp [State.fetch8, State.fetchAddr, State.curAddr]

/-- Action 3 of R175 writes the byte at CS:IP into CUR_OPCODE. -/
theorem State.fetchOpcode_eq (s : State) : s.fetchOpcode = { s with curOpcode := s.byteAt s.curAddr } := by
  rw [State.fetchOpcode, State.fetch8_zero]

/-- The end of a step writes OVR and LAST_EXEC alone. -/
theorem State.complete_keeps (cur : Linear) (s : State) :
    (s.complete cur).halt = s.halt ∧ (s.complete cur).regs = s.regs ∧ (s.complete cur).curOpcode = s.curOpcode := by
  cases hs : s.halt with
  | running => rw [State.complete_running cur hs]; exact ⟨hs, rfl, rfl⟩
  | halted r => rw [State.complete_halted cur hs]; exact ⟨hs, rfl, rfl⟩

theorem State.complete_halt (cur : Linear) (s : State) : (s.complete cur).halt = s.halt :=
  have ⟨hhalt, _, _⟩ := s.complete_keeps cur
  hhalt

theorem State.complete_curAddr (cur : Linear) (s : State) : (s.complete cur).curAddr = s.curAddr :=
  have ⟨_, hregs, _⟩ := s.complete_keeps cur
  congrArg (fun f : RegFile => addr f.cs f.ip) hregs

theorem State.complete_curOpcode (cur : Linear) (s : State) : (s.complete cur).curOpcode = s.curOpcode :=
  have ⟨_, _, hop⟩ := s.complete_keeps cur
  hop

/-- No instruction writes CUR_OPCODE, so the handler leaves there the byte that the driver fetched. -/
theorem exec_fetchOpcode_curOpcode (h : exec i s.fetchOpcode = .next u) : u.curOpcode = s.byteAt s.curAddr := by
  obtain ⟨-, -, hop, -⟩ := exec_keeps h
  rw [hop, State.fetchOpcode_curOpcode, State.fetch8_zero]

/-- The end of a step that raised nothing, by the byte at CS:IP (spec/48_step_driver.md R175, actions 5a and 6, R177). -/
theorem complete_exec_of_running (h : exec i s.fetchOpcode = .next u) (hrun : u.halt = .running) :
    u.complete s.curAddr = { u with
      ovr := if s.byteAt s.curAddr ∈ [0x26, 0x2E, 0x36, 0x3E] then u.ovr else { u.ovr with enable := false }
      lastExec := some s.curAddr } := by
  simp only [State.complete_running _ hrun, exec_fetchOpcode_curOpcode h, isOverrideByte_iff]

section
variable (h : exec i s.fetchOpcode = .next u) (hrun : u.halt = .running)
include h hrun

theorem complete_exec_lastExec : (u.complete s.curAddr).lastExec = some s.curAddr := by
  rw [complete_exec_of_running h hrun]

/-- An override byte leaves OVR as its handler set it (spec/48_step_driver.md R177). -/
theorem complete_exec_ovr_of_override (hop : s.byteAt s.curAddr ∈ [0x26, 0x2E, 0x36, 0x3E]) :
    (u.complete s.curAddr).ovr = u.ovr := by
  rw [complete_exec_of_running h hrun]
  exact if_pos hop

/-- After any other byte the override has ended (spec/48_step_driver.md R177). -/
theorem complete_exec_ovr_of_not_override (hop : s.byteAt s.curAddr ∉ [0x26, 0x2E, 0x36, 0x3E]) :
    (u.complete s.curAddr).ovr = { u.ovr with enable := false } := by
  rw [complete_exec_of_running h hrun]
  exact if_neg hop

end

/-- A running core whose watchdog is silent runs the decoded instruction (spec/48_step_driver.md R175). -/
theorem step_of_decode (hrun : s.halt = .running) (hw : s.lastExec ≠ some s.curAddr) (hi : decode s.codeView = .ok i)
    (hu : exec i s.fetchOpcode = .next u) : step s = .next (u.complete s.curAddr) := by
  have hsilent : ¬s.watchdogTrips = true := fun h => hw (State.watchdogTrips_iff.mp h)
  have hlookup : s.lookup = .ok i := hi
  simp [step, hrun, hsilent, hlookup, hu]

/-- A step that leaves the core running ran an instruction that raised nothing, and completed. -/
theorem step_completed (h : step s = .next t) (hrun : t.halt = .running) :
    ∃ i u, decode s.codeView = .ok i ∧ exec i s.fetchOpcode = .next u ∧ u.halt = .running ∧
      t = u.complete s.curAddr := by
  obtain ⟨-, ⟨-, rfl⟩ | ⟨-, -, rfl⟩ | ⟨-, i, u, hi, hu, rfl⟩⟩ := step_cases h
  · cases hrun
  · cases hrun
  · exact ⟨i, u, hi, hu, (u.complete_halt s.curAddr).symm.trans hrun, rfl⟩

/-- A step that halts with IP_NOT_ADVANCED began at the address last executed: the other conditions have other kinds
(spec/60_exceptions.md R200, R203). -/
theorem lastExec_of_step_ipNotAdvanced (h : step s = .next t) (ht : t.halt = .halted r) (hk : r.kind = .ipNotAdvanced) :
    s.lastExec = some s.curAddr := by
  obtain ⟨hrun, ⟨hw, -⟩ | ⟨-, -, rfl⟩ | ⟨-, i, u, -, hu, rfl⟩⟩ := step_cases h
  · exact State.watchdogTrips_iff.mp hw
  · cases ht
    cases hk
  · rw [State.complete_halt] at ht
    obtain ⟨-, -, -, -, -, -, -, -, hhalt | ⟨rm, f, -, -, rfl⟩⟩ := exec_keeps hu
    · rw [ht, State.fetchOpcode_halt, hrun] at hhalt
      cases hhalt
    · cases ht
      cases hk

end Sys2Proof.Machine
end

section
/-! SUPPORT. What an instruction leaves in OVR, CS and IP: only the override bytes write OVR, and what is no jump moves to
another linear address (spec/46_segment_prefix.md R169, spec/48_step_driver.md R176 b). -/

namespace Sys2Proof

/-- Every instruction has one to five bytes (spec/30_encoding.md R70). -/
theorem Instr.length_bounds (i : Instr) : 1 ≤ i.length ∧ i.length ≤ 5 := by
  cases i with
  | xchgRm16R16 rm | movR8Rm8 _ rm | movR16Rm16 _ rm | movRm16Sreg rm | movSregRm16 _ rm =>
    exact (Laws.EncodedLength.of_modrm rm 0 0).2
  | _ => simp [Instr.length]

/-- A selector counts in units of 16, so an address keeps the last hexadecimal digit of its offset (spec/20_memory.md R41). -/
theorem addr_toNat_mod_sixteen (seg off : Word) : (addr seg off).toNat % 16 = off.toNat % 16 := by
  rw [addr_toNat]
  omega

/-- An instruction that decodes as a segment override has the primary byte of one (spec/48_step_driver.md R177). -/
theorem byte0_of_decode_override {c : CodeView} {i : Instr} (h : decode c = .ok i)
    (hi : i ∈ [Instr.segEs, .segCs, .segSs, .segDs]) : c.byte0 ∈ [(0x26 : Byte), 0x2E, 0x36, 0x3E] := by
  obtain ⟨byte, wrd, rfl⟩ := c.exists_ofReads
  obtain ⟨-, hreads⟩ := decode_ofReads_iff.mp h
  simp only [List.mem_cons, List.not_mem_nil, or_false] at hi
  rcases hi with rfl | rfl | rfl | rfl <;> simp [CodeView.ofReads, hreads.1]

end Sys2Proof

namespace Sys2Proof.Machine

variable {s t : State} {i : Instr}

/-- Only the four segment overrides write OVR (spec/46_segment_prefix.md R169). -/
theorem exec_ovr_of_not_override (h : exec i s = .next t) (hi : i ∉ [Instr.segEs, .segCs, .segSs, .segDs]) :
    t.ovr = s.ovr := by
  cases i with
  | segEs | segCs | segSs | segDs => simp at hi
  | xchgRm16R16 rm r => cases h; cases rm <;> rfl
  | movRm16Sreg rm f =>
    simp only [exec, execMovRm16Sreg] at h
    cases hf : SReg.ofField f <;> rw [hf] at h <;> cases h
    · rfl
    · cases rm <;> rfl
  | movSregRm16 f rm =>
    simp only [exec, execMovSregRm16] at h
    cases hf : SReg.ofField f <;> rw [hf] at h <;> cases h <;> rfl
  | jzRel8 | jnzRel8 | jcxzRel8 =>
    simp only [exec, execJzRel8, execJnzRel8, execJcxzRel8, State.jumpShortIf_eq] at h
    cases h
    rfl
  | _ => cases h; rfl

/-- An instruction that is no jump leaves CS:IP at another linear address, even when it writes CS: a selector counts in units
of 16, and an instruction is shorter than that (spec/48_step_driver.md R176 b). -/
theorem exec_curAddr_ne_of_not_jump (h : exec i s = .next t) (hrun : t.halt = .running) (hj : Safety.isJump i = false) :
    t.curAddr ≠ s.curAddr := by
  intro heq
  have hdigit : t.ip.toNat % 16 = s.ip.toNat % 16 := by
    rw [← addr_toNat_mod_sixteen t.regs.cs, ← addr_toNat_mod_sixteen s.regs.cs]
    exact congrArg (·.toNat % 16) heq
  rw [exec_ip_of_not_jump h hrun hj, BitVec.toNat_add, BitVec.toNat_ofNat] at hdigit
  have hlen := i.length_bounds
  omega

end Sys2Proof.Machine
end

section
/-! SUPPORT. What the environment can do between two steps, said once (spec/48_step_driver.md R178, R179). -/

namespace Sys2Proof.Machine

variable {P : Config.Params} {s t : State} {r : HaltRecord}

/-- A halted core accepts no reset (spec/60_exceptions.md R206). -/
theorem resetEvent_of_halted (h : s.halt = .halted r) : resetEvent s = .fault (.halted r) := by
  simp [resetEvent, h]

/-- A halted core processes no message (spec/60_exceptions.md R206). -/
theorem deliver_of_halted (h : s.halt = .halted r) (m : BusMsg) : deliver P m s = .fault (.halted r) := by
  simp [deliver, h]

/-- A message that is answered finds a running core, which ignores it or switches its mode (spec/49_mode_switch.md R195). -/
theorem deliver_cases {m : BusMsg} (h : deliver P m s = .next t) :
    s.halt = .running ∧ (t = s ∨ ∃ b, t = s.switchMode P b) := by
  cases hs : s.halt with
  | halted r =>
    rw [deliver_of_halted hs] at h
    cases h
  | running =>
    refine ⟨rfl, ?_⟩
    simp only [deliver, hs] at h
    split at h
    · split at h
      · cases h
        exact .inr ⟨_, rfl⟩
      · cases h
    all_goals
      cases h
      exact .inl rfl

/-- Every event but the step that answers a next state acts on a running core, as a reset or a message, or changes one byte of
memory or of a port, whether the core runs or not. -/
theorem event_cases {e : Event} (he : e ≠ .step) (h : event P e s = .next t) :
    (s.halt = .running ∧ (t = s.resetWrites ∨ t = s ∨ ∃ b, t = s.switchMode P b)) ∨
    (∃ a v, t = s.setByteAt a v) ∨ (∃ p v, t = s.setPortAt p v) := by
  cases e with
  | step => exact absurd rfl he
  | reset =>
    change resetEvent s = .next t at h
    cases hs : s.halt with
    | running =>
      rw [resetEvent_running hs] at h
      cases h
      exact .inl ⟨rfl, .inl rfl⟩
    | halted r =>
      rw [resetEvent_of_halted hs] at h
      cases h
  | deliver m =>
    obtain ⟨hrun, hkind⟩ := deliver_cases (m := m) h
    exact .inl ⟨hrun, .inr hkind⟩
  | writeMem a v => cases h; exact .inr (.inl ⟨a, v, rfl⟩)
  | writePort p v => cases h; exact .inr (.inr ⟨p, v, rfl⟩)

end Sys2Proof.Machine
end

section
/-! The obligations on the step driver and the events between two steps (spec/48_step_driver.md). -/

namespace Sys2Proof.Safety

open Sys2Proof.Machine

/-- Settles O47: the byte at CS:IP fixes what was decoded, so the four captures are those of O37, and any other byte is no
override's, so its handler kept OVR and the driver ended it. -/
theorem overrideLastsOneInstruction : Obligations.OverrideLastsOneInstruction := by
  intro s t hstep hrun op
  obtain ⟨i, u, hi, hu, hurun, rfl⟩ := step_completed hstep hrun
  have hop : s.codeView.byte0 = op := s.fetch8_zero
  have hcapture : ∀ x ∈ [(Instr.segEs, SReg.es), (.segCs, .cs), (.segSs, .ss), (.segDs, .ds)],
      decode s.codeView = .ok x.1 → (u.complete s.curAddr).ovr = { enable := true, selector := s.seg x.2 } := by
    intro x hx hdec
    obtain ⟨v, hv, hovr, -⟩ := overrideBytesCapture.2 s.fetchOpcode x hx
    cases hi.symm.trans hdec
    cases hu.symm.trans hv
    have hmem : op ∈ [0x26, 0x2E, 0x36, 0x3E] :=
      hop ▸ byte0_of_decode_override hdec (List.mem_map_of_mem (f := Prod.fst) hx)
    exact (complete_exec_ovr_of_override hu hurun hmem).trans hovr
  have hended : op ∉ [0x26, 0x2E, 0x36, 0x3E] →
      (u.complete s.curAddr).ovr = { enable := false, selector := s.ovr.selector } := by
    intro hnot
    have hkept : u.ovr = s.fetchOpcode.ovr :=
      exec_ovr_of_not_override hu fun hmem => hnot (hop ▸ byte0_of_decode_override hi hmem)
    rw [complete_exec_ovr_of_not_override hu hurun hnot, hkept, State.fetchOpcode_ovr]
  obtain ⟨hes, hcs, hss, hds⟩ := overrideBytesCapture.1 s.codeView
  refine ⟨complete_exec_lastExec hu hurun, (u.complete_curOpcode _).trans (exec_fetchOpcode_curOpcode hu),
    ?_, ?_, ?_, ?_, hended⟩
  · exact fun h => hcapture (.segEs, .es) (by simp) (hes (hop.trans h))
  · exact fun h => hcapture (.segCs, .cs) (by simp) (hcs (hop.trans h))
  · exact fun h => hcapture (.segSs, .ss) (by simp) (hss (hop.trans h))
  · exact fun h => hcapture (.segDs, .ds) (by simp) (hds (hop.trans h))

/-- Settles O48: the watchdog compares with the address that the step before recorded, which only a jump can reach again. -/
theorem watchdogTripsOnlyAfterJump : Obligations.WatchdogTripsOnlyAfterJump := by
  intro s t u r hstep hrun hnext hhalt hkind
  have hlast := lastExec_of_step_ipNotAdvanced hnext hhalt hkind
  obtain ⟨i, v, hi, hv, hvrun, rfl⟩ := step_completed hstep hrun
  rw [complete_exec_lastExec hv hvrun, State.complete_curAddr] at hlast
  have hsame : v.curAddr = s.curAddr := (Option.some.inj hlast).symm
  exact ⟨i, hi, Bool.of_not_eq_false fun hj => exec_curAddr_ne_of_not_jump hv hvrun hj hsame,
    (v.complete_curAddr _).trans hsame⟩

/-- Settles O51: a reset and a message find a running core and leave its arrays and its latch, a change of a byte is a
canonical write and leaves the registers that a record speaks of. -/
theorem environmentKeepsInvariant : Obligations.EnvironmentKeepsInvariant := by
  intro P e s t he hinv h
  obtain ⟨hw, hagrees⟩ := inv_iff.mp hinv
  rw [inv_iff]
  obtain ⟨hrun, rfl | rfl | ⟨b, rfl⟩⟩ | ⟨a, v, rfl⟩ | ⟨p, v, rfl⟩ := event_cases he h
  · exact ⟨hw, haltAgrees_of_running hrun⟩
  · exact ⟨hw, hagrees⟩
  · exact ⟨hw, haltAgrees_of_running hrun⟩
  · exact ⟨State.arraysWf_setByteAt hw a v, hagrees⟩
  · exact ⟨State.arraysWf_setPortAt hw p v, hagrees⟩

/-- Settles O42: the handler's outcome (`exec_next`), then the end of the step, by whether the handler halted. -/
theorem stepRunsDecodedInstruction : Obligations.StepRunsDecodedInstruction := by
  intro s i hrun hw hi op
  obtain ⟨u, hu⟩ := exec_next i s.fetchOpcode
  have hstep := step_of_decode hrun hw hi hu
  refine ⟨u, s.fetchOpcode_eq ▸ hu, fun r hr => ?_, fun hr => ?_⟩
  · rw [hstep, State.complete_halted _ hr]
  · rw [hstep, complete_exec_of_running hu hr]

/-- Settles O46: the step, the reset and the message fault on a halted core, and the events left write no latch. -/
theorem haltedCoreIsStuck : Obligations.HaltedCoreIsStuck := by
  intro P s r hs
  refine ⟨step_of_halted hs, resetEvent_of_halted hs, deliver_of_halted hs, fun e t h => ?_⟩
  by_cases he : e = .step
  · subst he
    cases (step_of_halted hs).symm.trans h
  obtain ⟨hrun, -⟩ | ⟨a, v, rfl⟩ | ⟨p, v, rfl⟩ := event_cases he h
  · cases hs.symm.trans hrun
  · exact hs
  · exact hs

/-- Settles O59: each is one write of a byte, with the law and the frame of that write. -/
theorem environmentWritesOneByte : Obligations.EnvironmentWritesOneByte := fun _ s v =>
  ⟨fun a => ⟨_, rfl, s.byteAt_setByteAt a v, rfl, framed_setByteAt s a v⟩,
    fun p => ⟨_, rfl, s.portAt_setPortAt p v, rfl, rfl, framed_withPorts s _ _⟩⟩

end Sys2Proof.Safety
end

section
/-! SUPPORT. The four things a step of a running core can be, by what stands at CS:IP: the three fatal conditions in the order in
which they are checked, and a completed instruction (spec/48_step_driver.md R175, spec/60_exceptions.md R200 to R205). -/

namespace Sys2Proof

/-- `reg = m[5:3]` in numbers (spec/30_encoding.md R72). -/
theorem regField_toNat : ∀ m : Byte, (regField m).toNat = m.toNat / 8 % 8 := by decide

/-- The `reg` fields that name no segment register, in numbers (spec/30_encoding.md R81). -/
theorem sreg_ofField_regField_eq_none {m : Byte} : SReg.ofField (regField m) = none ↔ 4 ≤ m.toNat / 8 % 8 := by
  rw [SReg.ofField_eq_none, regField_toNat]

/-- An `Sreg` move that decodes has the primary byte 8C or 8E and the `reg` field of the ModR/M byte after it. -/
theorem bytes_of_decode_sregMove {c : CodeView} {rm : RM Reg16} {f : BitVec 3} {i : Instr} (h : decode c = .ok i)
    (hi : i = .movRm16Sreg rm f ∨ i = .movSregRm16 f rm) :
    (c.byte0 = 0x8C ∨ c.byte0 = 0x8E) ∧ regField c.byte1 = f := by
  obtain ⟨byte, wrd, rfl⟩ := c.exists_ofReads
  obtain ⟨-, hreads⟩ := decode_ofReads_iff.mp h
  rcases hi with rfl | rfl
  · obtain ⟨h0, h1, -⟩ := hreads
    exact ⟨.inl h0, (congrArg regField h1).trans (regField_modrmByte _ _ _)⟩
  · obtain ⟨h0, h1, -⟩ := hreads
    exact ⟨.inr h0, (congrArg regField h1).trans (regField_modrmByte _ _ _)⟩

end Sys2Proof

namespace Sys2Proof.Machine

variable {s t : State} {i : Instr}

/-- `8C` or `8E` with a `reg` field of 4 to 7 stands at CS:IP (spec/30_encoding.md R81). -/
def State.badSregField (s : State) : Prop :=
  (s.byteAt s.curAddr = 0x8C ∨ s.byteAt s.curAddr = 0x8E) ∧ 4 ≤ (s.fetch8 1).toNat / 8 % 8

/-- The decoded move with such a field raises the fatal condition, and its record keeps the ModR/M byte fetched. -/
theorem exec_of_badSregField (h : s.badSregField) :
    ∃ i, decode s.codeView = .ok i ∧
      exec i s.fetchOpcode = .next (s.fetchOpcode.raiseFatal .unrecognizedSubencoding (some (s.fetch8 1))) := by
  obtain ⟨hop, hfield⟩ := h
  have hnone : SReg.ofField (regField s.codeView.byte1) = none := sreg_ofField_regField_eq_none.mpr hfield
  have hbyte : s.codeView.rm16.modrmByte Reg16.field (regField s.codeView.byte1) = s.fetch8 1 :=
    RM.modrmByte_parse _ _ Reg16.field_ofField _ _ _
  rw [← s.fetch8_zero] at hop
  rw [← hbyte]
  rcases hop with hop | hop
  · exact ⟨_, decode_of_find hop rfl rfl, exec_movRm16Sreg_of_none hnone _ _⟩
  · exact ⟨_, decode_of_find hop rfl rfl, exec_movSregRm16_of_none hnone _ _⟩

/-- Any other decoded instruction leaves a running core running. -/
theorem exec_running_of_not_badSregField (hrun : s.halt = .running) (hi : decode s.codeView = .ok i)
    (hgood : ¬s.badSregField) (h : exec i s.fetchOpcode = .next t) : t.halt = .running := by
  obtain ⟨-, -, -, -, -, -, -, -, hhalt | ⟨rm, f, hnone, hmove, -⟩⟩ := exec_keeps h
  · exact hhalt.trans hrun
  · obtain ⟨hop, rfl⟩ := bytes_of_decode_sregMove hi hmove
    exact absurd ⟨s.fetch8_zero ▸ hop, sreg_ofField_regField_eq_none.mp hnone⟩ hgood

section
variable (hrun : s.halt = .running)
include hrun

/-- The first check (spec/60_exceptions.md R203). -/
theorem step_of_lastExec (hagain : s.lastExec = some s.curAddr) : step s = .next s.haltNotAdvanced := by
  have hw : s.watchdogTrips = true := State.watchdogTrips_iff.mpr hagain
  simp [step, hrun, hw]

variable (hnew : s.lastExec ≠ some s.curAddr)
include hnew

/-- The second check, as the decoder answers it (spec/60_exceptions.md R201). -/
theorem step_of_decode_error {e : DecodeError} (he : decode s.codeView = .error e) : step s = .next s.haltUnknownOpcode := by
  have hw : ¬s.watchdogTrips = true := fun h => hnew (State.watchdogTrips_iff.mp h)
  have hlookup : s.lookup = .error e := he
  simp [step, hrun, hw, hlookup]

/-- The second check, by the primary byte (spec/30_encoding.md R79). -/
theorem step_of_unmapped (hun : Safety.unmappedByte (s.byteAt s.curAddr).toNat = true) :
    step s = .next s.haltUnknownOpcode := by
  rw [← s.fetch8_zero] at hun
  exact step_of_decode_error hrun hnew (decode_of_unmapped hun)

/-- The third check (spec/60_exceptions.md R202). -/
theorem step_of_badSregField (hbad : s.badSregField) :
    step s = .next (s.fetchOpcode.raiseFatal .unrecognizedSubencoding (some (s.fetch8 1))) := by
  obtain ⟨i, hi, hexec⟩ := exec_of_badSregField hbad
  rw [step_of_decode hrun hnew hi hexec, State.complete_halted _ (State.raiseFatal_halt _ _ _)]

/-- A step that passes the three checks completes. -/
theorem step_of_no_fatal (hmapped : Safety.unmappedByte (s.byteAt s.curAddr).toNat = false) (hgood : ¬s.badSregField) :
    ∃ t, step s = .next t ∧ t.halt = .running := by
  rw [← s.fetch8_zero] at hmapped
  obtain ⟨i, hi⟩ := decode_of_mapped (c := s.codeView) hmapped
  obtain ⟨u, hu⟩ := exec_next i s.fetchOpcode
  refine ⟨_, step_of_decode hrun hnew hi hu, ?_⟩
  rw [State.complete_halt]
  exact exec_running_of_not_badSregField hrun hi hgood hu

end

/-- A running core has a step, and it is one of four, the conditions being checked in this order (spec/60_exceptions.md
R204). -/
theorem step_outcomes (hrun : s.halt = .running) : ∃ t, step s = .next t ∧
    ((s.lastExec = some s.curAddr ∧ t = s.haltNotAdvanced) ∨
     (s.lastExec ≠ some s.curAddr ∧ Safety.unmappedByte (s.byteAt s.curAddr).toNat = true ∧ t = s.haltUnknownOpcode) ∨
     (s.lastExec ≠ some s.curAddr ∧ Safety.unmappedByte (s.byteAt s.curAddr).toNat = false ∧ s.badSregField ∧
       t = s.fetchOpcode.raiseFatal .unrecognizedSubencoding (some (s.fetch8 1))) ∨
     (s.lastExec ≠ some s.curAddr ∧ Safety.unmappedByte (s.byteAt s.curAddr).toNat = false ∧ ¬s.badSregField ∧
       t.halt = .running)) := by
  by_cases hagain : s.lastExec = some s.curAddr
  · exact ⟨_, step_of_lastExec hrun hagain, .inl ⟨hagain, rfl⟩⟩
  cases hun : Safety.unmappedByte (s.byteAt s.curAddr).toNat with
  | true => exact ⟨_, step_of_unmapped hrun hagain hun, .inr (.inl ⟨hagain, rfl, rfl⟩)⟩
  | false =>
    by_cases hbad : s.badSregField
    · exact ⟨_, step_of_badSregField hrun hagain hbad, .inr (.inr (.inl ⟨hagain, rfl, hbad, rfl⟩))⟩
    · obtain ⟨t, ht, htrun⟩ := step_of_no_fatal hrun hagain hun hbad
      exact ⟨t, ht, .inr (.inr (.inr ⟨hagain, rfl, hbad, htrun⟩))⟩

/-- A step that halts is one of the three fatal conditions: the state it leaves, whole. -/
theorem step_halted_cases {r : HaltRecord} (h : step s = .next t) (ht : t.halt = .halted r) :
    t = s.haltNotAdvanced ∨ t = s.haltUnknownOpcode ∨
      t = s.fetchOpcode.raiseFatal .unrecognizedSubencoding (some (s.fetch8 1)) := by
  obtain ⟨hrun, -⟩ := step_cases h
  obtain ⟨t', ht', ⟨-, rfl⟩ | ⟨-, -, rfl⟩ | ⟨-, -, -, rfl⟩ | ⟨-, -, -, htrun⟩⟩ := step_outcomes hrun
  all_goals cases h.symm.trans ht'
  · exact .inl rfl
  · exact .inr (.inl rfl)
  · exact .inr (.inr rfl)
  · cases ht.symm.trans htrun

end Sys2Proof.Machine
end

section
/-! The obligations on the fatal conditions (spec/60_exceptions.md). -/

namespace Sys2Proof.Safety

open Sys2Proof.Machine

/-- Settles O43: each of the four outcomes of `step_outcomes` decides the three conditions and leaves the latch of one kind. -/
theorem fatalConditionsInOrder : Obligations.FatalConditionsInOrder := by
  intro s hrun
  obtain ⟨t, ht, hout⟩ := step_outcomes hrun
  refine ⟨t, ht, ?_⟩
  have hdef : s.badSregField ↔
      (s.byteAt s.curAddr = 0x8C ∨ s.byteAt s.curAddr = 0x8E) ∧ 4 ≤ (s.fetch8 1).toNat / 8 % 8 := Iff.rfl
  simp only [← hdef]
  obtain ⟨hagain, rfl⟩ | ⟨hnew, hun, rfl⟩ | ⟨hnew, hmapped, hbad, rfl⟩ | ⟨hnew, hmapped, hgood, htrun⟩ := hout
  · simp [State.haltNotAdvanced, hagain]
  · simp [State.haltUnknownOpcode, hnew, hun]
  · simp [hnew, hmapped, hbad]
  · simp [htrun, hnew, hmapped, hgood]

/-- Settles O44: each of the three states that a halting step can leave (`step_halted_cases`) is `raiseFatal` at the step's
entry, for two of them after CUR_OPCODE was fetched. -/
theorem fatalStepWritesNothing : Obligations.FatalStepWritesNothing := by
  intro s t r h ht
  have hcase := step_halted_cases h ht
  rw [State.haltUnknownOpcode, s.fetchOpcode_eq] at hcase
  obtain rfl | rfl | rfl := hcase <;> cases ht
  · exact ⟨rfl, rfl, rfl, rfl, rfl, rfl, fun _ => rfl, fun hk => absurd rfl hk, nofun⟩
  · exact ⟨rfl, rfl, rfl, rfl, rfl, rfl, nofun, fun _ => rfl, nofun⟩
  · exact ⟨rfl, rfl, rfl, rfl, rfl, rfl, nofun, fun _ => rfl, fun _ => rfl⟩

/-- Settles O45: the second check comes first on a core that is not at the address last executed. -/
theorem unmappedByteHalts : Obligations.UnmappedByteHalts := by
  intro s hrun hnew hun
  rw [step_of_unmapped hrun hnew hun, State.haltUnknownOpcode, s.fetchOpcode_eq]
  rfl

end Sys2Proof.Safety
end

section
/-! SUPPORT. Every part of a step treats MODE and PE as it found them (spec/49_mode_switch.md R196, spec/60_exceptions.md
R208). -/

namespace Sys2Proof.Machine

open Sys2Proof.Safety (withMode onNext)

/-- The end of a step writes OVR and LAST_EXEC alone: neither the mode nor the messages. -/
theorem State.complete_keeps_mode (cur : Linear) (s : State) :
    (s.complete cur).mode = s.mode ∧ (s.complete cur).cr0Pe = s.cr0Pe ∧ (s.complete cur).outMsgs = s.outMsgs := by
  cases hs : s.halt with
  | running => rw [State.complete_running cur hs]; exact ⟨rfl, rfl, rfl⟩
  | halted r => rw [State.complete_halted cur hs]; exact ⟨rfl, rfl, rfl⟩

variable (m : Byte) (pe : Bool)

/-- No instruction reads MODE or PE. -/
theorem exec_withMode (i : Instr) (s : State) : exec i (withMode m pe s) = onNext (withMode m pe) (exec i s) := by
  cases i with
  | jzRel8 | jnzRel8 | jcxzRel8 =>
    simp only [exec, execJzRel8, execJnzRel8, execJcxzRel8, State.jumpShortIf_eq]
    rfl
  | xchgRm16R16 rm => cases rm <;> rfl
  | movRm16Sreg rm f | movSregRm16 f rm =>
    simp only [exec, execMovRm16Sreg, execMovSregRm16]
    cases SReg.ofField f <;> cases rm <;> rfl
  | _ => rfl

theorem complete_withMode (cur : Linear) (s : State) :
    (withMode m pe s).complete cur = withMode m pe (s.complete cur) := by
  cases hs : s.halt with
  | running =>
    have hs' : (withMode m pe s).halt = .running := hs
    rw [State.complete_running cur hs, State.complete_running cur hs']
    rfl
  | halted r =>
    have hs' : (withMode m pe s).halt = .halted r := hs
    rw [State.complete_halted cur hs, State.complete_halted cur hs']

end Sys2Proof.Machine
end

section
/-! SUPPORT. What a running core does with a message (spec/49_mode_switch.md R191 to R195). -/

namespace Sys2Proof.Machine

variable {P : Config.Params} {s : State}

theorem deliver_request (hrun : s.halt = .running) (b : Byte) :
    deliver P { name := .requestCpuModeswitch, payload := [b] } s = .next (s.switchMode P b) := by
  simp [deliver, hrun]

theorem deliver_malformed {m : BusMsg} (hrun : s.halt = .running) (hm : m.name = .requestCpuModeswitch)
    (hlen : m.payload.length ≠ 1) : deliver P m s = .refused .malformedModeSwitchRequest := by
  simp only [deliver, hrun, hm]
  split
  · next b hb => exact absurd (congrArg List.length hb) hlen
  · rfl

theorem deliver_other {m : BusMsg} (hrun : s.halt = .running) (hm : m.name ≠ .requestCpuModeswitch) :
    deliver P m s = .next s := by
  simp only [deliver, hrun]
  cases hname : m.name with
  | requestCpuModeswitch => exact absurd hname hm
  | globalCpuModeswitch | globalLockBiosMemRegion | other => rfl

/-- PE after a switch to PROTECTED (spec/49_mode_switch.md R192). -/
theorem cr0Pe_switchMode_protected : (s.switchMode P P.modeProtected).cr0Pe = true := if_pos rfl

/-- PE after a switch to REAL, whose byte is another (spec/49_mode_switch.md R192, decision D13). -/
theorem cr0Pe_switchMode_real (hwf : P.wf = true) : (s.switchMode P P.modeReal).cr0Pe = false := by
  have hne : P.modeReal ≠ P.modeProtected := by simpa [Config.Params.wf] using hwf
  simp [State.switchMode, hne]

/-- PE after a switch to a mode that is neither (spec/49_mode_switch.md R192, decision D11). -/
theorem cr0Pe_switchMode_other {b : Byte} (hp : b ≠ P.modeProtected) (hr : b ≠ P.modeReal) :
    (s.switchMode P b).cr0Pe = s.cr0Pe := by
  simp [State.switchMode, hp, hr]

end Sys2Proof.Machine
end

section
/-! The obligations on the mode and its messages (spec/49_mode_switch.md). -/

namespace Sys2Proof.Safety

open Sys2Proof.Machine

/-- Settles O52: a fatal condition writes neither mode nor flag, an instruction keeps them (`exec_keeps`), and so does the end of
the step. -/
theorem stepNeverSwitchesMode : Obligations.StepNeverSwitchesMode := by
  intro s t h
  obtain ⟨-, ⟨-, rfl⟩ | ⟨-, -, rfl⟩ | ⟨-, i, u, -, hu, rfl⟩⟩ := step_cases h
  · exact ⟨rfl, rfl, rfl, rfl, id, id⟩
  · exact ⟨rfl, rfl, rfl, rfl, id, id⟩
  · obtain ⟨hpe, hmode, -, -, hmsgs, htf, hif, hdf, -⟩ := exec_keeps hu
    obtain ⟨hmode', hpe', hmsgs'⟩ := u.complete_keeps_mode s.curAddr
    obtain ⟨-, hregs, -⟩ := u.complete_keeps s.curAddr
    have hflags : (u.complete s.curAddr).flags = u.flags := congrArg RegFile.flags hregs
    rw [hflags]
    exact ⟨hmode'.trans hmode, hpe'.trans hpe, hmsgs'.trans hmsgs, htf, hif, hdf⟩

/-- Settles O53: the branch that a step takes does not depend on MODE or PE, and what is done in it carries them along. -/
theorem modeChangesNothing : Obligations.ModeChangesNothing := by
  intro s m pe
  cases hs : s.halt with
  | halted r =>
    have hs' : (withMode m pe s).halt = .halted r := hs
    rw [step_of_halted hs, step_of_halted hs']
    rfl
  | running =>
    have hs' : (withMode m pe s).halt = .running := hs
    by_cases hw : s.lastExec = some s.curAddr
    · have hw' : (withMode m pe s).lastExec = some (withMode m pe s).curAddr := hw
      rw [step_of_lastExec hs hw, step_of_lastExec hs' hw']
      rfl
    have hw' : (withMode m pe s).lastExec ≠ some (withMode m pe s).curAddr := hw
    cases hd : decode s.codeView with
    | error e =>
      have hd' : decode (withMode m pe s).codeView = .error e := hd
      rw [step_of_decode_error hs hw hd, step_of_decode_error hs' hw' hd']
      rfl
    | ok i =>
      have hd' : decode (withMode m pe s).codeView = .ok i := hd
      obtain ⟨u, hu⟩ := exec_next i s.fetchOpcode
      have hu' : exec i (withMode m pe s).fetchOpcode = .next (withMode m pe u) :=
        (exec_withMode m pe i s.fetchOpcode).trans (congrArg _ hu)
      rw [step_of_decode hs hw hd hu, step_of_decode hs' hw' hd' hu']
      exact congrArg _ (complete_withMode m pe s.curAddr u)

/-- Settles O57: the request is one `switchMode`, whose PE is taken by the target byte. -/
theorem modeSwitchMessage : Obligations.ModeSwitchMessage := by
  intro P s b hwf hrun
  refine ⟨_, deliver_request hrun b, ?_, ?_, cr0Pe_switchMode_other (s := s)⟩
  · rintro rfl
    exact cr0Pe_switchMode_protected (s := s)
  · rintro rfl
    exact cr0Pe_switchMode_real (s := s) hwf

/-- Settles O58: a running core answers every message that is no request with the same state, and refuses a malformed one. -/
theorem otherMessagesIgnored : Obligations.OtherMessagesIgnored := fun _ _ _ hrun =>
  ⟨deliver_other hrun, deliver_malformed hrun⟩

end Sys2Proof.Safety
end

section
/-! The obligations on reset and on a jump to itself (spec/70_reset_and_hazards.md), and where CS:IP is after each. -/

namespace Sys2Proof.Machine

variable {s u : State} {i : Instr}

/-- The reset vector is linear FFFF0 (spec/70_reset_and_hazards.md R221). -/
theorem State.curAddr_resetWrites (s : State) : s.resetWrites.curAddr = 0xFFFF0 :=
  have hvector : addr Config.resetCs Config.resetIp = 0xFFFF0 := by decide
  hvector

/-- The offset FFFD takes back the three bytes of `E9 cw` (spec/41_control_transfer.md R125 e). -/
theorem near_target_self (ip : Word) : ip + 3 + 0xFFFD = ip := by
  rw [BitVec.add_assoc]
  exact BitVec.add_zero ip

/-- The offset FE takes back the two bytes of a short jump (spec/41_control_transfer.md R125 e). -/
theorem short_target_self (ip : Word) : ip + 2 + sext16 0xFE = ip := by
  rw [BitVec.add_assoc]
  exact BitVec.add_zero ip

/-- A write of IP with its own value leaves the address. -/
theorem curAddr_setIp_self {v : Word} (h : v = s.ip) : (s.setIp v).curAddr = s.curAddr := by
  subst h
  rfl

theorem curAddr_jumpShortIf_self {taken : Bool} (h : taken = true) : (s.jumpShortIf taken 0xFE).curAddr = s.curAddr := by
  rw [State.jumpShortIf_eq, if_pos h]
  exact curAddr_setIp_self (short_target_self s.ip)

/-- No short jump writes the halt latch. -/
theorem halt_jumpShortIf (taken : Bool) (rel : Byte) : (s.jumpShortIf taken rel).halt = s.halt := by
  rw [State.jumpShortIf_eq, State.setIp_halt]

/-- An instruction that leaves a running core at its own address completes, and the next step finds the address it recorded
(spec/60_exceptions.md R203, spec/70_reset_and_hazards.md R223). -/
theorem step_step_of_self (hrun : s.halt = .running) (hnew : s.lastExec ≠ some s.curAddr) (hi : decode s.codeView = .ok i)
    (hu : exec i s.fetchOpcode = .next u) (hurun : u.halt = .running) (hself : u.curAddr = s.curAddr) :
    ∃ t, step s = .next t ∧ t.halt = .running ∧ t.curAddr = s.curAddr ∧ t.curOpcode = s.byteAt s.curAddr ∧
      step t = .next t.haltNotAdvanced := by
  have hrun' : (u.complete s.curAddr).halt = .running := (u.complete_halt _).trans hurun
  have haddr : (u.complete s.curAddr).curAddr = s.curAddr := (u.complete_curAddr _).trans hself
  have hagain : (u.complete s.curAddr).lastExec = some (u.complete s.curAddr).curAddr := by
    rw [complete_exec_lastExec hu hurun, haddr]
  exact ⟨_, step_of_decode hrun hnew hi hu, hrun', haddr,
    (u.complete_curOpcode _).trans (exec_fetchOpcode_curOpcode hu), step_of_lastExec hrun' hagain⟩

end Sys2Proof.Machine

namespace Sys2Proof.Safety

open Sys2Proof.Machine

/-- Settles O49: each of the five jumps leaves the halt latch and lands on its own address, which is all that
`step_step_of_self` asks. -/
theorem jumpToSelfHalts : Obligations.JumpToSelfHalts := by
  intro s hrun hnew hjump
  have hself : ∃ i u, decode s.codeView = .ok i ∧ exec i s.fetchOpcode = .next u ∧ u.halt = s.halt ∧
      u.curAddr = s.curAddr := by
    obtain hi | ⟨hi, hz⟩ | ⟨hi, hz⟩ | ⟨hi, hcx⟩ | ⟨off, seg, hi, haddr⟩ := hjump
    · exact ⟨_, _, hi, rfl, State.setIp_halt _ _, curAddr_setIp_self (s := s.fetchOpcode) (near_target_self s.ip)⟩
    · exact ⟨_, _, hi, rfl, halt_jumpShortIf _ _, curAddr_jumpShortIf_self (s := s.fetchOpcode) hz⟩
    · exact ⟨_, _, hi, rfl, halt_jumpShortIf _ _, curAddr_jumpShortIf_self (s := s.fetchOpcode) (congrArg not hz)⟩
    · exact ⟨_, _, hi, rfl, halt_jumpShortIf _ _, curAddr_jumpShortIf_self (s := s.fetchOpcode) (beq_iff_eq.mpr hcx)⟩
    · exact ⟨_, _, hi, rfl, rfl, haddr⟩
  obtain ⟨i, u, hi, hu, hhalt, haddr⟩ := hself
  obtain ⟨t, ht, htrun, htaddr, htop, hnext⟩ := step_step_of_self hrun hnew hi hu (hhalt.trans hrun) haddr
  exact ⟨t, _, _, ht, htrun, htaddr, hnext, rfl, rfl, htaddr, htop⟩

/-- Settles O54: a running core accepts the reset, whose writes are those of R221. -/
theorem resetEntersResetVector : Obligations.ResetEntersResetVector := by
  intro s hrun
  refine ⟨_, resetEvent_running hrun, rfl, rfl, s.curAddr_resetWrites, rfl, rfl, rfl, State.r16_resetWrites s,
    fun _ hr => State.seg_resetWrites_other s hr, ?_⟩
  exact ⟨rfl, rfl, rfl, hrun, rfl, rfl, rfl, rfl, rfl⟩

end Sys2Proof.Safety
end
